-- ==== Sys2Proof/Word.lean ====
section
/-! DEFINITION. The bit-vector types of the Slicudis RISC Machine. The manual's "word" is 16 bits (R14,
`00_scope.md`), so none of these types is called a word: they are named for what they hold. -/

namespace Sys2Proof

/-- A byte, the unit of memory (R14, R60). -/
abbrev Byte := BitVec 8

/-- An address or the value of the program counter: `ALEN` = 32 bits (R8, R60; log 25). -/
abbrev Addr := BitVec 32

/-- An instruction: one 32-bit word in every case (R90). -/
abbrev Insn := BitVec 32

/-- A register's value. The storage is 64 bits wide in every configuration; without the 64-bit extension
(`XLEN` = 32) a write keeps the low 32 bits and clears the others (R20, R240; log 37). -/
abbrev RegVal := BitVec 64

end Sys2Proof
end

