-- ==== Sys2Proof/Config.lean ====
section
/-! DEFINITION. The implementation parameters of R8 (`00_scope.md`). A parameter that is a value is a field of
`Config`; the one that is a function of operands, `DIV_ZERO`, is the opaque constant `Config.divZero`. Beside it
stands the free value of the model, the input `irq` (`Config.irqInput`).
`HAS_PROT` is fixed false and `ALEN` is fixed at 32 by R8 itself, so neither is a field; `XLEN` follows from
`HAS_Q64`. The values the model's reset state takes are in `Sys2Proof/Machine/Params.lean`. -/

namespace Sys2Proof

/-- `ENDIAN` (R65, D2; log 3). -/
inductive Endian where
  | little
  | big
deriving DecidableEq, Repr

/-- `VECTOR_MODE`: what locations 0x0 and 0x4 hold (R275, D3; log 4). -/
inductive VectorMode where
  /-- Each holds the 32-bit address of the handler. -/
  | pointer
  /-- Each holds an instruction, which trap entry continues at. -/
  | code
deriving DecidableEq, Repr

/-- `PB_LAYOUT`: where format PB has its two fields (R102, D4; log 5). -/
inductive PbLayout where
  /-- The default: FN2 = bits [26:23], F1 = bit [22], bits [21:0] unused. -/
  | packed
  /-- The alternative R102 names: FN2 = bits [26:22], F1 in the FN1 position [16:13]. DEDUCED: the bits
  [21:17] and [12:0] are unused and a value of F1 above 1 selects no instruction. -/
  | spread
deriving DecidableEq, Repr

/-- `UNUSED_BITS`: the treatment of instruction bits that no field covers (R105, D5; log 6). -/
inductive UnusedBits where
  | mustBeZero
  | ignored
deriving DecidableEq, Repr

/-- The two ways to widen a value: `ALU_IMM_EXT` (R104, D6; log 7) and `LOAD_EXT` (R135, D7; log 8). -/
inductive Ext where
  | zero
  | sign
deriving DecidableEq, Repr

/-- `SHIFT_AMOUNT`: how a shift count at or above the operating width is treated (R171, D8; log 9). -/
inductive ShiftAmount where
  /-- The count is the whole unsigned operand. -/
  | full
  /-- The count is the operand modulo the operating width. -/
  | lowBits
deriving DecidableEq, Repr

/-- `Q0_UPPER`: bits [63:32] of a destination an ALU instruction writes in 32-bit mode when `XLEN` = 64
(R243, D21; log 24). -/
inductive Q0Upper where
  | zero
  | sign
  | preserve
deriving DecidableEq, Repr

/-- A run of byte addresses, from `base` on, `size` bytes long. -/
structure Region where
  base : Nat
  size : Nat
deriving DecidableEq, Repr

/-- The parameters of R8 that are values. -/
structure Config where
  /-- `HAS_MULDIV`: the multiplication and division extension is present. -/
  hasMulDiv : Bool
  /-- `HAS_Q64`: the 64-bit extension is present. -/
  hasQ64 : Bool
  /-- `ENDIAN`. -/
  endian : Endian
  /-- `VECTOR_MODE`. -/
  vectorMode : VectorMode
  /-- `PB_LAYOUT`. -/
  pbLayout : PbLayout
  /-- `UNUSED_BITS`. -/
  unusedBits : UnusedBits
  /-- `ALU_IMM_EXT`. -/
  aluImmExt : Ext
  /-- `LOAD_EXT`. -/
  loadExt : Ext
  /-- `SHIFT_AMOUNT`. -/
  shiftAmount : ShiftAmount
  /-- `JUMP_IGNORED_BITS`. -/
  jumpIgnoredBits : Nat
  /-- `QUAD_IGNORED_BITS`. -/
  quadIgnoredBits : Nat
  /-- `SR_RESET`: bits 3 to 0 of the status register after reset (the others are hard-wired, R35). -/
  srReset : BitVec 4
  /-- `Q0_UPPER`. -/
  q0Upper : Q0Upper
  /-- `MEM_POPULATED`: the byte addresses backed by memory, as regions (R64; log 20). -/
  populated : List Region
deriving DecidableEq, Repr

/-- `XLEN`: the width of the registers r0 to r28 in bits (R8, R240). -/
def Config.xlen (c : Config) : Nat := if c.hasQ64 then 64 else 32

/-- The name of the configuration in the spec's own scheme (R3, D1). -/
def Config.name (c : Config) : String :=
  "SRM32" ++ (if c.hasMulDiv then "M" else "") ++ (if c.hasQ64 then "Q" else "")

/-- The values of the two ignored-bit parameters that the spec names: the manual's 3 and 4, and the natural
alignments 2 and 3 kept as the other instances (C16, C17; log 33). -/
def Config.wf (c : Config) : Bool :=
  2 ≤ c.jumpIgnoredBits && c.jumpIgnoredBits ≤ 3 && 3 ≤ c.quadIgnoredBits && c.quadIgnoredBits ≤ 4

/-- The two operations `DIV_ZERO` is a function of (R261 (e)). -/
inductive DivOp where
  | div
  | mod
deriving DecidableEq, Repr

/-- `DIV_ZERO`: the result of a division or modulo by zero, a total function of the operation and the dividend at
the operating width `w`, about which nothing else is known (R261 (e), D20, U8; log 21). It has no body: every
claim holds whatever it is. -/
opaque Config.divZero (w : Nat) (op : DivOp) (dividend : BitVec w) : BitVec w

/-- The values of the input `irq` at the instruction boundaries, where nothing is assumed of the environment (R42, R272,
U24; log 19). It has no body: every claim holds whatever the sequence is. -/
opaque Config.irqInput (boundary : Nat) : Bool

end Sys2Proof
end

