-- ==== Sys2Proof/Machine/Params.lean ====
section
/-! DEFINITION. The parameter values of the machine that `State.reset` and `decodeTableWord` stand for: the defaults of
R8, with both extensions present (the spec leaves their presence open; log 2). -/

namespace Sys2Proof

/-- The configuration of `State.reset` (R8): every default the spec gives, and `SRM32MQ` where it gives none. -/
def defaultConfig : Config where
  hasMulDiv := true
  hasQ64 := true
  endian := .little
  vectorMode := .pointer
  pbLayout := .packed
  unusedBits := .mustBeZero
  aluImmExt := .zero
  loadExt := .zero
  shiftAmount := .full
  jumpIgnoredBits := 3
  quadIgnoredBits := 4
  srReset := 1
  q0Upper := .zero
  populated := [⟨0, 2 ^ 32⟩]

end Sys2Proof
end

