-- ==== Sys2Proof/Syntax.lean ====
section
/-! DEFINITION. The registers, the 53 instructions of `opcode_table.json` (one constructor a row) and the 11
pseudo-instructions of the assembler. -/

namespace Sys2Proof

/-- What a 5-bit register field selects (R20): the constant r0, one of the 28 writable registers (`gpr k` is
r(k+1)), or one of the three registers that instructions can read and not write. -/
inductive Reg where
  /-- r0, constant 0. -/
  | zr
  /-- r1 to r28; `k` is the register's number less one. -/
  | gpr (k : Fin 28)
  /-- r29, the interrupt return pointer. -/
  | ir
  /-- r30, the instruction pointer. -/
  | ip
  /-- r31, the status register. -/
  | sr
deriving DecidableEq, Repr

/-! The labels of R20's register table. -/

abbrev Reg.a0 : Reg := .gpr 0
abbrev Reg.a1 : Reg := .gpr 1
abbrev Reg.a2 : Reg := .gpr 2
abbrev Reg.a3 : Reg := .gpr 3
abbrev Reg.a4 : Reg := .gpr 4
abbrev Reg.a5 : Reg := .gpr 5
abbrev Reg.s0 : Reg := .gpr 6
abbrev Reg.s1 : Reg := .gpr 7
abbrev Reg.s2 : Reg := .gpr 8
abbrev Reg.s3 : Reg := .gpr 9
abbrev Reg.s4 : Reg := .gpr 10
abbrev Reg.s5 : Reg := .gpr 11
abbrev Reg.t0 : Reg := .gpr 12
abbrev Reg.t1 : Reg := .gpr 13
abbrev Reg.t2 : Reg := .gpr 14
abbrev Reg.t3 : Reg := .gpr 15
abbrev Reg.t4 : Reg := .gpr 16
abbrev Reg.t5 : Reg := .gpr 17
abbrev Reg.t6 : Reg := .gpr 18
abbrev Reg.t7 : Reg := .gpr 19
abbrev Reg.t8 : Reg := .gpr 20
abbrev Reg.t9 : Reg := .gpr 21
abbrev Reg.t10 : Reg := .gpr 22
abbrev Reg.t11 : Reg := .gpr 23
abbrev Reg.t12 : Reg := .gpr 24
abbrev Reg.fp : Reg := .gpr 25
abbrev Reg.sp : Reg := .gpr 26
abbrev Reg.rp : Reg := .gpr 27

/-- Which side of a call preserves a register (the Saver column of R20's table, R21). -/
inductive Saver where
  | caller
  | callee
deriving DecidableEq, Repr

/-- The Saver column (R20, R21): a software convention, which no instruction enforces. -/
def Reg.saver : Reg → Option Saver
  | .gpr k =>
    if (6 ≤ k.val ∧ k.val ≤ 11) ∨ k.val = 25 ∨ k.val = 26 then some .callee else some .caller
  | .zr | .ir | .ip | .sr => none

/-- Can an instruction write this register (the last column of R20's table, R28)? -/
def Reg.writable : Reg → Bool
  | .gpr _ => true
  | .zr | .ir | .ip | .sr => false

/-- The instructions. Operand order is the assembler's (R116): destination `c` first, then the sources `a` and `b`,
then the immediate as the field holds it; for stores the data register `b` stands before the base `a`. -/
inductive Instr where
  /-- SYSCAL (R210). -/
  | syscal
  /-- LUI C, IMM (R130). -/
  | lui (c : Reg) (imm : BitVec 22)
  /-- STB B, A, IMM (R132). -/
  | stb (b a : Reg) (imm : BitVec 13)
  /-- STW B, A, IMM (R133). -/
  | stw (b a : Reg) (imm : BitVec 13)
  /-- STD B, A, IMM (R134). -/
  | std (b a : Reg) (imm : BitVec 13)
  /-- LDB C, A, IMM (R136). -/
  | ldb (c a : Reg) (imm : BitVec 13)
  /-- LDW C, A, IMM (R137). -/
  | ldw (c a : Reg) (imm : BitVec 13)
  /-- LDD C, A, IMM (R138). -/
  | ldd (c a : Reg) (imm : BitVec 13)
  /-- IRJ A, IMM (R154). -/
  | irj (a : Reg) (imm : BitVec 22)
  /-- JMP IMM (R155). -/
  | jmp (imm : BitVec 27)
  /-- JEQ A, B, IMM (R156). -/
  | jeq (a b : Reg) (imm : BitVec 13)
  /-- JLT A, B, IMM (R157). -/
  | jlt (a b : Reg) (imm : BitVec 13)
  /-- JSLT A, B, IMM (R158). -/
  | jslt (a b : Reg) (imm : BitVec 13)
  /-- JSV A, B, IMM (R159). -/
  | jsv (a b : Reg) (imm : BitVec 13)
  /-- JNE A, B, IMM (R160). -/
  | jne (a b : Reg) (imm : BitVec 13)
  /-- JGE A, B, IMM (R161). -/
  | jge (a b : Reg) (imm : BitVec 13)
  /-- JSGE A, B, IMM (R162). -/
  | jsge (a b : Reg) (imm : BitVec 13)
  /-- JNSV A, B, IMM (R163). -/
  | jnsv (a b : Reg) (imm : BitVec 13)
  /-- ADD C, A, B (R172). -/
  | add (c a b : Reg)
  /-- SUB C, A, B (R173). -/
  | sub (c a b : Reg)
  /-- AND C, A, B (R174). -/
  | and (c a b : Reg)
  /-- OR C, A, B (R175). -/
  | or (c a b : Reg)
  /-- XOR C, A, B (R176). -/
  | xor (c a b : Reg)
  /-- SHR C, A, B (R177). -/
  | shr (c a b : Reg)
  /-- ASR C, A, B (R178). -/
  | asr (c a b : Reg)
  /-- SHL C, A, B (R179). -/
  | shl (c a b : Reg)
  /-- ASL C, A, B (R180). -/
  | asl (c a b : Reg)
  /-- CCH C, A, B (R181). -/
  | cch (c a b : Reg)
  /-- BCH C, A, B (R182). -/
  | bch (c a b : Reg)
  /-- ADDI C, A, IMM (R191). -/
  | addi (c a : Reg) (imm : BitVec 13)
  /-- SUBI C, A, IMM (R192). -/
  | subi (c a : Reg) (imm : BitVec 13)
  /-- ANDI C, A, IMM (R193). -/
  | andi (c a : Reg) (imm : BitVec 13)
  /-- ORI C, A, IMM (R194). -/
  | ori (c a : Reg) (imm : BitVec 13)
  /-- XORI C, A, IMM (R195). -/
  | xori (c a : Reg) (imm : BitVec 13)
  /-- SHRI C, A, IMM (R196). -/
  | shri (c a : Reg) (imm : BitVec 13)
  /-- ASRI C, A, IMM (R197). -/
  | asri (c a : Reg) (imm : BitVec 13)
  /-- SHLI C, A, IMM (R198). -/
  | shli (c a : Reg) (imm : BitVec 13)
  /-- ASLI C, A, IMM (R199). -/
  | asli (c a : Reg) (imm : BitVec 13)
  /-- CCHI C, A, IMM (R200). -/
  | cchi (c a : Reg) (imm : BitVec 13)
  /-- BCHI C, A, IMM (R201). -/
  | bchi (c a : Reg) (imm : BitVec 13)
  /-- SSB n (R212). The number has 5 bits, the widest FN2 that `PB_LAYOUT` allows; the default layout holds 4 of
  them (R211; log 5). -/
  | ssb (n : BitVec 5)
  /-- CSB n (R214). -/
  | csb (n : BitVec 5)
  /-- URT (R215). -/
  | urt
  /-- STQ B, A, IMM (R244). -/
  | stq (b a : Reg) (imm : BitVec 13)
  /-- LDQ C, A, IMM (R245). -/
  | ldq (c a : Reg) (imm : BitVec 13)
  /-- LUI.UU C, IMM (R246). -/
  | luiUU (c : Reg) (imm : BitVec 22)
  /-- LUI.LU C, IMM (R247). -/
  | luiLU (c : Reg) (imm : BitVec 22)
  /-- MUL C, A, B (R262). -/
  | mul (c a b : Reg)
  /-- DIV C, A, B (R263). -/
  | div (c a b : Reg)
  /-- MOD C, A, B (R264). -/
  | mod (c a b : Reg)
  /-- MULI C, A, IMM (R265). -/
  | muli (c a : Reg) (imm : BitVec 13)
  /-- DIVI C, A, IMM (R266). -/
  | divi (c a : Reg) (imm : BitVec 13)
  /-- MODI C, A, IMM (R267). -/
  | modi (c a : Reg) (imm : BitVec 13)
deriving DecidableEq, Repr

/-- The instruction formats of R94 to R102. -/
inductive Format where
  | ri
  | ri2
  | i
  | rrr
  | rri
  | rri2
  /-- Defined by the figure and used by no instruction (R100). -/
  | rr
  | n
  | pb
deriving DecidableEq, Repr

/-- What an instruction belongs to: the base or one of the two extensions the manual lists instructions of (R2). -/
inductive Extension where
  | base
  | q64
  | mulDiv
deriving DecidableEq, Repr

/-- The format of each instruction (R106). -/
def Instr.format : Instr → Format
  | .lui _ _ | .luiUU _ _ | .luiLU _ _ => .ri
  | .irj _ _ => .ri2
  | .jmp _ => .i
  | .add _ _ _ | .sub _ _ _ | .and _ _ _ | .or _ _ _ | .xor _ _ _ | .shr _ _ _ | .asr _ _ _
  | .shl _ _ _ | .asl _ _ _ | .cch _ _ _ | .bch _ _ _ | .mul _ _ _ | .div _ _ _ | .mod _ _ _ => .rrr
  | .addi _ _ _ | .subi _ _ _ | .andi _ _ _ | .ori _ _ _ | .xori _ _ _ | .shri _ _ _ | .asri _ _ _
  | .shli _ _ _ | .asli _ _ _ | .cchi _ _ _ | .bchi _ _ _ | .muli _ _ _ | .divi _ _ _ | .modi _ _ _
  | .ldb _ _ _ | .ldw _ _ _ | .ldd _ _ _ | .ldq _ _ _ => .rri
  | .stb _ _ _ | .stw _ _ _ | .std _ _ _ | .stq _ _ _
  | .jeq _ _ _ | .jlt _ _ _ | .jslt _ _ _ | .jsv _ _ _
  | .jne _ _ _ | .jge _ _ _ | .jsge _ _ _ | .jnsv _ _ _ => .rri2
  | .syscal | .urt => .n
  | .ssb _ | .csb _ => .pb

/-- What each instruction belongs to (the last column of R108). -/
def Instr.extension : Instr → Extension
  | .stq _ _ _ | .ldq _ _ _ | .luiUU _ _ | .luiLU _ _ => .q64
  | .mul _ _ _ | .div _ _ _ | .mod _ _ _ | .muli _ _ _ | .divi _ _ _ | .modi _ _ _ => .mulDiv
  | .syscal | .lui _ _ | .stb _ _ _ | .stw _ _ _ | .std _ _ _ | .ldb _ _ _ | .ldw _ _ _ | .ldd _ _ _
  | .irj _ _ | .jmp _ | .jeq _ _ _ | .jlt _ _ _ | .jslt _ _ _ | .jsv _ _ _
  | .jne _ _ _ | .jge _ _ _ | .jsge _ _ _ | .jnsv _ _ _
  | .add _ _ _ | .sub _ _ _ | .and _ _ _ | .or _ _ _ | .xor _ _ _ | .shr _ _ _ | .asr _ _ _
  | .shl _ _ _ | .asl _ _ _ | .cch _ _ _ | .bch _ _ _
  | .addi _ _ _ | .subi _ _ _ | .andi _ _ _ | .ori _ _ _ | .xori _ _ _ | .shri _ _ _ | .asri _ _ _
  | .shli _ _ _ | .asli _ _ _ | .cchi _ _ _ | .bchi _ _ _ | .ssb _ | .csb _ | .urt => .base

/-- The pseudo-instructions of the assembler (R220 to R231). They have no encoding of their own; `Pseudo.expand`
(`Sys2Proof/Decode.lean`) gives the instructions each stands for. -/
inductive Pseudo where
  | ldi (c : Reg) (imm : BitVec 32)
  | inc (c : Reg)
  | dec (c : Reg)
  | mov (c a : Reg)
  | jal (imm : BitVec 27)
  | ret
  | nop
  | clr (c : Reg)
  | wfi
  | psh (b : Reg)
  | pop (c : Reg)
deriving DecidableEq, Repr

end Sys2Proof
end

