-- ==== Sys2Proof/WellFormed.lean ====
section
/-! DEFINITION. Which instructions a configuration has an encoding for: the extension an instruction belongs to must
be present (R113) and the number of a status bit must fit the field FN2 of `PB_LAYOUT` (R102, R211). Registers and
immediates fit their fields by their types. -/

namespace Sys2Proof

/-- Is the extension present (R2, R8)? -/
def Config.has (c : Config) : Extension → Bool
  | .base => true
  | .q64 => c.hasQ64
  | .mulDiv => c.hasMulDiv

/-- Does the number of a status bit fit the field FN2: 4 bits in the default layout, 5 in the other (R102)? -/
def PbLayout.admits (l : PbLayout) (n : BitVec 5) : Bool :=
  match l with
  | .packed => n.toNat < 16
  | .spread => true

/-- The number of the status bit an instruction of format PB names. -/
def Instr.statusBit? : Instr → Option (BitVec 5)
  | .ssb n | .csb n => some n
  | .syscal | .urt | .irj _ _ | .jmp _ | .jeq _ _ _ | .jlt _ _ _ | .jslt _ _ _ | .jsv _ _ _
  | .jne _ _ _ | .jge _ _ _ | .jsge _ _ _ | .jnsv _ _ _
  | .lui _ _ | .luiUU _ _ | .luiLU _ _ | .stb _ _ _ | .stw _ _ _ | .std _ _ _ | .stq _ _ _
  | .ldb _ _ _ | .ldw _ _ _ | .ldd _ _ _ | .ldq _ _ _
  | .add _ _ _ | .sub _ _ _ | .and _ _ _ | .or _ _ _ | .xor _ _ _ | .shr _ _ _ | .asr _ _ _
  | .shl _ _ _ | .asl _ _ _ | .cch _ _ _ | .bch _ _ _ | .mul _ _ _ | .div _ _ _ | .mod _ _ _
  | .addi _ _ _ | .subi _ _ _ | .andi _ _ _ | .ori _ _ _ | .xori _ _ _ | .shri _ _ _ | .asri _ _ _
  | .shli _ _ _ | .asli _ _ _ | .cchi _ _ _ | .bchi _ _ _ | .muli _ _ _ | .divi _ _ _ | .modi _ _ _ => none

/-- The number of a status bit fits the configuration's field. -/
def Instr.statusBitFits (c : Config) (i : Instr) : Bool :=
  match i.statusBit? with
  | some n => c.pbLayout.admits n
  | none => true

/-- The instruction has an encoding in this configuration. -/
def Instr.wellFormed (c : Config) (i : Instr) : Bool :=
  c.has i.extension && i.statusBitFits c

end Sys2Proof
end

