-- ==== Sys2Proof/Decode.lean ====
section
/-! DEFINITION. Byte order, decoding (R107 to R111), encoding (R94 to R103) and the expansions of the
pseudo-instructions (R221 to R231). -/

namespace Sys2Proof

/-! Bytes and values (R65 to R68; log 3) -/

/-- The number whose base-256 digits are the bytes, the first byte the least significant. -/
def joinBytes : List Byte → Nat
  | [] => 0
  | b :: bs => b.toNat + 256 * joinBytes bs

/-- The `n` low base-256 digits of a number, the least significant first. -/
def splitBytes : Nat → Nat → List Byte
  | 0, _ => []
  | n + 1, v => BitVec.ofNat 8 v :: splitBytes n (v / 256)

/-- Bytes in the order of rising addresses, from bytes in the order of rising significance, or back. -/
def Endian.order (e : Endian) (bs : List Byte) : List Byte :=
  match e with
  | .little => bs
  | .big => bs.reverse

/-- The value of an access whose bytes, from the lowest address up, are `bs` (R66). -/
def Endian.value (e : Endian) (bs : List Byte) : Nat := joinBytes (e.order bs)

/-- The bytes of an access of `n` bytes, from the lowest address up, that carries the value `v` (R67). -/
def Endian.bytes (e : Endian) (n v : Nat) : List Byte := e.order (splitBytes n v)

/-! Fields (R91 to R103) -/

/-- The register a 5-bit field selects (R20, R92). -/
def regOfField (f : BitVec 5) : Reg :=
  if h : 1 ≤ f.toNat ∧ f.toNat ≤ 28 then .gpr ⟨f.toNat - 1, by omega⟩
  else if f.toNat = 0 then .zr
  else if f.toNat = 29 then .ir
  else if f.toNat = 30 then .ip
  else .sr

/-- The 5-bit field that selects a register (R20, R92). -/
def Reg.field : Reg → BitVec 5
  | .zr => 0
  | .gpr k => BitVec.ofNat 5 (k.val + 1)
  | .ir => 29
  | .ip => 30
  | .sr => 31

/-- `insn[31:27]` (R91). -/
def opcodeOf (w : Insn) : BitVec 5 := w.extractLsb' 27 5
/-- Field C, `insn[26:22]` (R92). -/
def fieldC (w : Insn) : Reg := regOfField (w.extractLsb' 22 5)
/-- Field A, `insn[21:17]` (R92). -/
def fieldA (w : Insn) : Reg := regOfField (w.extractLsb' 17 5)
/-- Field B, `insn[12:8]` (R92). -/
def fieldB (w : Insn) : Reg := regOfField (w.extractLsb' 8 5)
/-- Field FN1, `insn[16:13]` (R93). -/
def fn1Of (w : Insn) : BitVec 4 := w.extractLsb' 13 4
/-- The immediate of format RI, `insn[21:0]` (R94, R103). -/
def immRI (w : Insn) : BitVec 22 := w.extractLsb' 0 22
/-- The immediate of format RI2, `insn[26:22] ++ insn[16:0]` (R95, R103). -/
def immRI2 (w : Insn) : BitVec 22 := w.extractLsb' 22 5 ++ w.extractLsb' 0 17
/-- The immediate of format I, `insn[26:0]` (R96, R103). -/
def immI (w : Insn) : BitVec 27 := w.extractLsb' 0 27
/-- The immediate of format RRI, `insn[12:0]` (R98, R103). -/
def immRRI (w : Insn) : BitVec 13 := w.extractLsb' 0 13
/-- The immediate of format RRI2, `insn[26:22] ++ insn[7:0]` (R99, R103). -/
def immRRI2 (w : Insn) : BitVec 13 := w.extractLsb' 22 5 ++ w.extractLsb' 0 8
/-- Field FN2 (R102): the number of a status bit. -/
def fn2Of (l : PbLayout) (w : Insn) : BitVec 5 :=
  match l with
  | .packed => (w.extractLsb' 23 4).setWidth 5
  | .spread => w.extractLsb' 22 5
/-- Field F1 (R102). -/
def f1Of (l : PbLayout) (w : Insn) : BitVec 4 :=
  match l with
  | .packed => (w.extractLsb' 22 1).setWidth 4
  | .spread => w.extractLsb' 13 4

/-- The bits of a format that no field covers (R105). -/
def Format.unused (l : PbLayout) : Format → Insn
  | .rrr => 0x000000FF
  | .rr => 0x0001FFFF
  | .n => 0x07FFFFFF
  | .pb =>
    match l with
    | .packed => 0x003FFFFF
    | .spread => 0x003E1FFF
  | .ri | .ri2 | .i | .rri | .rri2 => 0

/-! Decoding (R107) -/

/-- Why a word is a reserved encoding (R111). The model refuses all of them (D24; log 26). -/
inductive Reserved where
  /-- Opcodes 0x0D to 0x1F (R110). -/
  | unassignedOpcode (op : BitVec 5)
  /-- A function value that R109 (or, for opcode 0x0A, R102) marks reserved. -/
  | unassignedFunction (op : BitVec 5) (fn : BitVec 4)
  /-- A bit that no field covers is not zero, with `UNUSED_BITS = must_be_zero` (R105). -/
  | unusedBitSet
  /-- The instruction belongs to an extension that the configuration lacks (R113). -/
  | extensionAbsent (e : Extension)
deriving DecidableEq, Repr

/-- Opcode 0x00, format RRR (the column of R109). -/
def selectRRR (fn : BitVec 4) (c a b : Reg) : Option Instr :=
  match fn.toNat with
  | 0x0 => some (.add c a b)
  | 0x1 => some (.sub c a b)
  | 0x2 => some (.and c a b)
  | 0x3 => some (.or c a b)
  | 0x4 => some (.xor c a b)
  | 0x5 => some (.shr c a b)
  | 0x6 => some (.asr c a b)
  | 0x7 => some (.shl c a b)
  | 0x8 => some (.asl c a b)
  | 0x9 => some (.cch c a b)
  | 0xA => some (.bch c a b)
  | 0xB => some (.mul c a b)
  | 0xC => some (.div c a b)
  | 0xD => some (.mod c a b)
  | _ => none

/-- Opcode 0x01, format RRI (the column of R109). -/
def selectRRI (fn : BitVec 4) (c a : Reg) (imm : BitVec 13) : Option Instr :=
  match fn.toNat with
  | 0x0 => some (.addi c a imm)
  | 0x1 => some (.subi c a imm)
  | 0x2 => some (.andi c a imm)
  | 0x3 => some (.ori c a imm)
  | 0x4 => some (.xori c a imm)
  | 0x5 => some (.shri c a imm)
  | 0x6 => some (.asri c a imm)
  | 0x7 => some (.shli c a imm)
  | 0x8 => some (.asli c a imm)
  | 0x9 => some (.cchi c a imm)
  | 0xA => some (.bchi c a imm)
  | 0xB => some (.muli c a imm)
  | 0xC => some (.divi c a imm)
  | 0xD => some (.modi c a imm)
  | _ => none

/-- Opcode 0x03, the stores (the column of R109). -/
def selectStore (fn : BitVec 4) (b a : Reg) (imm : BitVec 13) : Option Instr :=
  match fn.toNat with
  | 0x0 => some (.stb b a imm)
  | 0x1 => some (.stw b a imm)
  | 0x2 => some (.std b a imm)
  | 0x3 => some (.stq b a imm)
  | _ => none

/-- Opcode 0x04, the loads (the column of R109). -/
def selectLoad (fn : BitVec 4) (c a : Reg) (imm : BitVec 13) : Option Instr :=
  match fn.toNat with
  | 0x0 => some (.ldb c a imm)
  | 0x1 => some (.ldw c a imm)
  | 0x2 => some (.ldd c a imm)
  | 0x3 => some (.ldq c a imm)
  | _ => none

/-- Opcode 0x07, the conditional jumps (the column of R109). -/
def selectJump (fn : BitVec 4) (a b : Reg) (imm : BitVec 13) : Option Instr :=
  match fn.toNat with
  | 0x0 => some (.jeq a b imm)
  | 0x1 => some (.jlt a b imm)
  | 0x2 => some (.jslt a b imm)
  | 0x3 => some (.jsv a b imm)
  | 0x4 => some (.jne a b imm)
  | 0x5 => some (.jge a b imm)
  | 0x6 => some (.jsge a b imm)
  | 0x7 => some (.jnsv a b imm)
  | _ => none

/-- Opcode 0x0A, SSB and CSB: F1 selects (R102, R109). -/
def selectPB (f1 : BitVec 4) (n : BitVec 5) : Option Instr :=
  match f1.toNat with
  | 0x0 => some (.ssb n)
  | 0x1 => some (.csb n)
  | _ => none

/-- What an opcode's function value selects, or the reason that it selects nothing. -/
def selected (op : BitVec 5) (fn : BitVec 4) : Option Instr → Except Reserved Instr
  | some i => .ok i
  | none => .error (.unassignedFunction op fn)

/-- The instruction that the opcode and the function value select (R107, R108), the word's unused bits and the
presence of extensions not yet looked at. -/
def selectInstr (l : PbLayout) (w : Insn) : Except Reserved Instr :=
  match (opcodeOf w).toNat with
  | 0x00 => selected (opcodeOf w) (fn1Of w) (selectRRR (fn1Of w) (fieldC w) (fieldA w) (fieldB w))
  | 0x01 => selected (opcodeOf w) (fn1Of w) (selectRRI (fn1Of w) (fieldC w) (fieldA w) (immRRI w))
  | 0x02 => .ok (.lui (fieldC w) (immRI w))
  | 0x03 => selected (opcodeOf w) (fn1Of w) (selectStore (fn1Of w) (fieldB w) (fieldA w) (immRRI2 w))
  | 0x04 => selected (opcodeOf w) (fn1Of w) (selectLoad (fn1Of w) (fieldC w) (fieldA w) (immRRI w))
  | 0x05 => .ok (.irj (fieldA w) (immRI2 w))
  | 0x06 => .ok (.jmp (immI w))
  | 0x07 => selected (opcodeOf w) (fn1Of w) (selectJump (fn1Of w) (fieldA w) (fieldB w) (immRRI2 w))
  | 0x08 => .ok .syscal
  | 0x09 => .ok .urt
  | 0x0A => selected (opcodeOf w) (f1Of l w) (selectPB (f1Of l w) (fn2Of l w))
  | 0x0B => .ok (.luiUU (fieldC w) (immRI w))
  | 0x0C => .ok (.luiLU (fieldC w) (immRI w))
  | _ => .error (.unassignedOpcode (opcodeOf w))

/-- The two checks that follow the selection (R107): the unused bits (R105), then the extension (R113). -/
def admitInstr (c : Config) (w : Insn) (i : Instr) : Except Reserved Instr :=
  if c.unusedBits = .mustBeZero ∧ w &&& i.format.unused c.pbLayout ≠ 0 then .error .unusedBitSet
  else if c.has i.extension then .ok i
  else .error (.extensionAbsent i.extension)

/-- Decoding (R107): total on every 32-bit word; a word that selects no instruction is rejected by the reason. -/
def decode (c : Config) (w : Insn) : Except Reserved Instr :=
  match selectInstr c.pbLayout w with
  | .ok i => admitInstr c w i
  | .error r => .error r

/-! Encoding (R94 to R102), field by field from bit 31 down -/

/-- Format RI (R94). -/
def encRI (op : BitVec 5) (c : Reg) (imm : BitVec 22) : Insn := op ++ c.field ++ imm
/-- Format RI2 (R95). -/
def encRI2 (op : BitVec 5) (a : Reg) (imm : BitVec 22) : Insn :=
  op ++ imm.extractLsb' 17 5 ++ a.field ++ imm.extractLsb' 0 17
/-- Format I (R96). -/
def encI (op : BitVec 5) (imm : BitVec 27) : Insn := op ++ imm
/-- Format RRR (R97). -/
def encRRR (op : BitVec 5) (fn : BitVec 4) (c a b : Reg) : Insn :=
  op ++ c.field ++ a.field ++ fn ++ b.field ++ (0 : BitVec 8)
/-- Format RRI (R98). -/
def encRRI (op : BitVec 5) (fn : BitVec 4) (c a : Reg) (imm : BitVec 13) : Insn :=
  op ++ c.field ++ a.field ++ fn ++ imm
/-- Format RRI2 (R99). -/
def encRRI2 (op : BitVec 5) (fn : BitVec 4) (a b : Reg) (imm : BitVec 13) : Insn :=
  op ++ imm.extractLsb' 8 5 ++ a.field ++ fn ++ b.field ++ imm.extractLsb' 0 8
/-- Format N (R101). -/
def encN (op : BitVec 5) : Insn := op ++ (0 : BitVec 27)
/-- Format PB (R102, R211). -/
def encPB (l : PbLayout) (op : BitVec 5) (n : BitVec 5) (f1 : BitVec 4) : Insn :=
  match l with
  | .packed => op ++ n.extractLsb' 0 4 ++ f1.extractLsb' 0 1 ++ (0 : BitVec 22)
  | .spread => op ++ n ++ (0 : BitVec 5) ++ f1 ++ (0 : BitVec 13)

/-- The word of an instruction (R94 to R103, R108, R109), unused bits zero (R105). For a well-formed instruction
`decode` gives it back. -/
def encode (cfg : Config) : Instr → Insn
  | .syscal => encN 0x08
  | .lui c imm => encRI 0x02 c imm
  | .stb b a imm => encRRI2 0x03 0x0 a b imm
  | .stw b a imm => encRRI2 0x03 0x1 a b imm
  | .std b a imm => encRRI2 0x03 0x2 a b imm
  | .ldb c a imm => encRRI 0x04 0x0 c a imm
  | .ldw c a imm => encRRI 0x04 0x1 c a imm
  | .ldd c a imm => encRRI 0x04 0x2 c a imm
  | .irj a imm => encRI2 0x05 a imm
  | .jmp imm => encI 0x06 imm
  | .jeq a b imm => encRRI2 0x07 0x0 a b imm
  | .jlt a b imm => encRRI2 0x07 0x1 a b imm
  | .jslt a b imm => encRRI2 0x07 0x2 a b imm
  | .jsv a b imm => encRRI2 0x07 0x3 a b imm
  | .jne a b imm => encRRI2 0x07 0x4 a b imm
  | .jge a b imm => encRRI2 0x07 0x5 a b imm
  | .jsge a b imm => encRRI2 0x07 0x6 a b imm
  | .jnsv a b imm => encRRI2 0x07 0x7 a b imm
  | .add c a b => encRRR 0x00 0x0 c a b
  | .sub c a b => encRRR 0x00 0x1 c a b
  | .and c a b => encRRR 0x00 0x2 c a b
  | .or c a b => encRRR 0x00 0x3 c a b
  | .xor c a b => encRRR 0x00 0x4 c a b
  | .shr c a b => encRRR 0x00 0x5 c a b
  | .asr c a b => encRRR 0x00 0x6 c a b
  | .shl c a b => encRRR 0x00 0x7 c a b
  | .asl c a b => encRRR 0x00 0x8 c a b
  | .cch c a b => encRRR 0x00 0x9 c a b
  | .bch c a b => encRRR 0x00 0xA c a b
  | .addi c a imm => encRRI 0x01 0x0 c a imm
  | .subi c a imm => encRRI 0x01 0x1 c a imm
  | .andi c a imm => encRRI 0x01 0x2 c a imm
  | .ori c a imm => encRRI 0x01 0x3 c a imm
  | .xori c a imm => encRRI 0x01 0x4 c a imm
  | .shri c a imm => encRRI 0x01 0x5 c a imm
  | .asri c a imm => encRRI 0x01 0x6 c a imm
  | .shli c a imm => encRRI 0x01 0x7 c a imm
  | .asli c a imm => encRRI 0x01 0x8 c a imm
  | .cchi c a imm => encRRI 0x01 0x9 c a imm
  | .bchi c a imm => encRRI 0x01 0xA c a imm
  | .ssb n => encPB cfg.pbLayout 0x0A n 0x0
  | .csb n => encPB cfg.pbLayout 0x0A n 0x1
  | .urt => encN 0x09
  | .stq b a imm => encRRI2 0x03 0x3 a b imm
  | .ldq c a imm => encRRI 0x04 0x3 c a imm
  | .luiUU c imm => encRI 0x0B c imm
  | .luiLU c imm => encRI 0x0C c imm
  | .mul c a b => encRRR 0x00 0xB c a b
  | .div c a b => encRRR 0x00 0xC c a b
  | .mod c a b => encRRR 0x00 0xD c a b
  | .muli c a imm => encRRI 0x01 0xB c a imm
  | .divi c a imm => encRRI 0x01 0xC c a imm
  | .modi c a imm => encRRI 0x01 0xD c a imm

/-! The opcode table's numbering -/

/-- The instruction the decoder reads from the word `w` of the opcode table, laid out in memory in the byte order of
the default configuration and read back as a fetch reads it (R68); bits from `nbits` on are zero. -/
def decodeTableWord (nbits w : Nat) : Option Instr :=
  let stored := defaultConfig.endian.bytes 4 (w % 2 ^ nbits)
  match decode defaultConfig (BitVec.ofNat 32 (defaultConfig.endian.value stored)) with
  | .ok i => some i
  | .error _ => none

/-! The assembler's expansions -/

/-- The instructions a pseudo-instruction stands for, in order (R221 to R231; MOV as C8 corrects it; log 41). -/
def Pseudo.expand : Pseudo → List Instr
  | .ldi c imm => [.lui c (imm.extractLsb' 10 22), .addi c c ((imm.extractLsb' 0 10).setWidth 13)]
  | .inc c => [.addi c c 1]
  | .dec c => [.subi c c 1]
  | .mov c a => [.addi c a 0]
  | .jal imm => [.addi .rp .ip 8, .jmp imm]
  | .ret => [.irj .rp 0]
  | .nop => [.add .zr .zr .zr]
  | .clr c => [.xor c c c]
  | .wfi => [.irj .ip 0]
  | .psh b => [.subi .sp .sp 4, .std b .sp 0]
  | .pop c => [.ldd c .sp 0, .addi .sp .sp 4]

end Sys2Proof
end

