-- ==== Sys2Proof/Machine/State.lean ====
section
/-! DEFINITION. The state of the machine, the reasons a step can stop, and the state after reset. -/

namespace Sys2Proof.Machine

/-- Memory: (address, byte) pairs, addresses strictly rising, with no entry for a byte that equals what an unlisted
address reads as (`Memory.wf`, `Sys2Proof/Machine/Ops.lean`). -/
abbrev Memory := List Host.Cell

/-- What the input `irq` (R42, R272) is at the coming instruction boundaries, one Boolean each, without end (log 19). Any
number of stated values can come first; then the environment holds one value for ever or nothing is assumed of it. -/
inductive IrqInput where
  /-- The same value at every boundary. -/
  | held (request : Bool)
  /-- Unconstrained: `Config.irqInput n` at the coming boundary, `Config.irqInput (n + 1)` at the one after it, and so on. -/
  | free (n : Nat)
  /-- One value at the coming boundary, then the rest. -/
  | value (now : Bool) (later : IrqInput)
deriving DecidableEq, Repr

/-- The state the spec gives the machine (`10_state.md`), and two fields of the model's own (`cfg`, `irq`). r0 is a
constant and has no storage (R20, R23). -/
structure State where
  /-- The model's own: the parameters of R8, which no step changes (log 1). -/
  cfg : Config
  /-- r1 to r28: entry `k` is r(k+1) (R20, R22; width, log 37). -/
  gpr : Vector RegVal 28
  /-- The program counter, read as r30 (R36). -/
  pc : Addr
  /-- IR, the interrupt return pointer, read as r29 (R24). -/
  ir : Addr
  /-- The status register's bits K (0), I (1), P (2) and Q (3), read as r31 (R29); the bits above do not exist
  (R35; log 13). -/
  sr : BitVec 4
  /-- Memory (R60). -/
  mem : Memory
  /-- The model's own: the input `irq` from the coming instruction boundary on (R42, R272; log 19). -/
  irq : IrqInput
deriving DecidableEq, Repr

/-- The faults of the model. The architecture has no fault of its own (R271). -/
inductive Fault where
  /-- A fetch, load, store or vector read touches the byte at `a`, or a byte after it in the same access, outside
  `MEM_POPULATED`: the manual gives it no response and the run is stuck (R64, U3; log 20). Raised by `fetch`, the
  loads, the stores and `trapEnter`. Safe: the model stops where hardware does something unknown. -/
  | unpopulated (a : Addr)
deriving DecidableEq, Repr

/-- The refusals of the model. -/
inductive Refusal where
  /-- The instruction has no meaning yet. Raised by `exec` only, in the arms of instructions not modelled; no arm raises
  it now. Safe. -/
  | notModelled (mnemonic : String)
  /-- The word fetched is a reserved encoding (R111, U1; log 26). Raised by `fetch`. Safe: the spec gives it no meaning. -/
  | reservedEncoding (why : Reserved)
  /-- A trap is taken and the vector read holds a value that is not a multiple of 4 (R276, U2; log 27). Raised by
  `trapEnter`. Safe: the spec gives it no meaning. -/
  | reservedVector (value : Addr)
deriving DecidableEq, Repr

/-- The state after reset of a machine with the given parameters, with the given values for what the manual leaves
unspecified (R43, R300, R301): the general registers, IR, memory and the interrupt input. -/
def State.resetWith (c : Config) (gpr : Vector RegVal 28) (ir : Addr) (mem : Memory) (irq : IrqInput) : State where
  cfg := c
  gpr := gpr
  pc := 0x00000008
  ir := ir
  sr := c.srReset
  mem := mem
  irq := irq

/-- The machine right after reset: pc = 0x8 (R43); SR = `SR_RESET` (log 16); r1 to r28 and IR zero (DESIGN CHOICE, logs
28 and 29); no byte of memory listed (log 30); the interrupt input unconstrained (log 32); the default parameters
(log 2). -/
def State.reset : State := State.resetWith defaultConfig (Vector.replicate 28 0) 0 [] (.free 0)

end Sys2Proof.Machine
end

