-- ==== Sys2Proof/Machine/Ops.lean ====
section
/-! DEFINITION. The named operations over memory, registers, the status register and the program counter; taking a
trap, and the return from one. -/

namespace Sys2Proof.Machine

/-! Memory, byte by byte -/

/-- What an address that is not listed reads as: zero (DESIGN CHOICE, unsafe; log 30). -/
def Memory.unlisted : Byte := 0

/-- The byte at an address. -/
def Memory.read : Memory → Nat → Byte
  | [], _ => Memory.unlisted
  | (k, b) :: m, a => if k = a then b else Memory.read m a

/-- Storing a byte. The canonical form is kept: a byte equal to what an unlisted address reads as is not listed. -/
def Memory.write : Memory → Nat → Byte → Memory
  | [], a, v => if v = Memory.unlisted then [] else [(a, v)]
  | (k, b) :: m, a, v =>
    if a < k then (if v = Memory.unlisted then (k, b) :: m else (a, v) :: (k, b) :: m)
    else if a = k then (if v = Memory.unlisted then m else (k, v) :: m)
    else (k, b) :: Memory.write m a v

/-- The canonical form: addresses strictly rising and inside the address space (R60), no entry equal to what an
unlisted address reads as. -/
def Memory.wf (m : Memory) : Bool :=
  decide (m.Pairwise fun x y => x.1 < y.1) && m.all fun e => e.1 < 2 ^ 32 && e.2 != Memory.unlisted

/-- The `n` bytes from an address up; addresses are modulo 2^32 (R62). -/
def Memory.readBytes (m : Memory) (a : Addr) : Nat → List Byte
  | 0 => []
  | n + 1 => m.read a.toNat :: Memory.readBytes m (a + 1) n

/-- Storing bytes from an address up; addresses are modulo 2^32 (R62). -/
def Memory.writeBytes (m : Memory) (a : Addr) : List Byte → Memory
  | [] => m
  | b :: bs => Memory.writeBytes (m.write a.toNat b) (a + 1) bs

/-! Memory accesses (R64 to R67) -/

/-- Is the byte at this address in `MEM_POPULATED` (R64)? -/
def backed (c : Config) (a : Addr) : Bool :=
  c.populated.any fun r => r.base ≤ a.toNat && a.toNat < r.base + r.size

/-- Are the `n` bytes from this address up in `MEM_POPULATED` (R64)? -/
def backs (c : Config) (a : Addr) : Nat → Bool
  | 0 => true
  | n + 1 => backed c a && backs c (a + 1) n

/-- `MemRead(addr, n)` (R66) as a number, in the byte order of the configuration. -/
def memRead (s : State) (a : Addr) (n : Nat) : Nat := s.cfg.endian.value (s.mem.readBytes a n)

/-- `MemWrite(addr, n, v)` (R67), in the byte order of the configuration. -/
def memWrite (s : State) (a : Addr) (n v : Nat) : State :=
  { s with mem := s.mem.writeBytes a (s.cfg.endian.bytes n v) }

/-- An access of `n` bytes from `a` up, followed by `k`; outside `MEM_POPULATED` there is no next state (R64). -/
def access {α : Type} (s : State) (a : Addr) (n : Nat) (k : Host.Outcome α Fault Refusal) :
    Host.Outcome α Fault Refusal :=
  if backs s.cfg a n then k else .fault (.unpopulated a)

/-! The status register (R29 to R35) -/

/-- SR.K, kernel mode (R30). -/
def State.srK (s : State) : Bool := s.sr.getLsbD 0
/-- SR.I, hardware interrupts enabled (R33). -/
def State.srI (s : State) : Bool := s.sr.getLsbD 1
/-- SR.P, protected memory mode; storage only (R31). -/
def State.srP (s : State) : Bool := s.sr.getLsbD 2
/-- SR.Q, 64-bit mode (R32). -/
def State.srQ (s : State) : Bool := s.sr.getLsbD 3

/-- The operating width W is 64 (R32). -/
def State.wide (s : State) : Bool := s.cfg.hasQ64 && s.srQ

/-- A status register with bit `n` set to `b`; a number above 3 names no bit. -/
def withStatusBit (sr : BitVec 4) (n : Nat) (b : Bool) : BitVec 4 :=
  if b then sr ||| (1#4 <<< n) else sr &&& ~~~(1#4 <<< n)

/-! Registers (R22 to R28) -/

/-- Reading a register, `x[i]` (R22 to R26): r0 reads zero; r29, r30 and r31 read IR, the pc (the address of the
instruction that reads it) and SR, zero-extended. -/
def State.reg (s : State) : Reg → RegVal
  | .zr => 0
  | .gpr k => s.gpr[k.val]
  | .ir => s.ir.setWidth 64
  | .ip => s.pc.setWidth 64
  | .sr => s.sr.setWidth 64

/-- A value cut to the register width `XLEN` (R20, R240; log 37). -/
def clip (c : Config) (v : RegVal) : RegVal :=
  if c.hasQ64 then v else (v.setWidth 32).setWidth 64

/-- Writing a register, `x[i] <- v` (R28): a write to r0, r29, r30 or r31 has no effect (log 12). -/
def State.setReg (s : State) (r : Reg) (v : RegVal) : State :=
  match r with
  | .gpr k => { s with gpr := s.gpr.set k.val (clip s.cfg v) }
  | .zr | .ir | .ip | .sr => s

/-! The program counter (R36 to R39) -/

/-- `pc <- trunc_32(pc + 4)` (R37, R39). -/
def State.advance (s : State) : State := { s with pc := s.pc + 4 }

/-- `align(addr, k)`: the address with its `k` low bits cleared (R12). -/
def align (a : Addr) (k : Nat) : Addr := (a >>> k) <<< k

/-- A jump's target loses its `JUMP_IGNORED_BITS` low bits (R151; log 33). -/
def State.jumpTo (s : State) (t : Addr) : State := { s with pc := align t s.cfg.jumpIgnoredBits }

/-! Traps (R270 to R284) -/

/-- The two vectors (R63, R270). -/
inductive Vec where
  | software
  | hardware
deriving DecidableEq, Repr

/-- Where a vector lies (R63). -/
def vectorAddr : Vec → Addr
  | .software => 0x00000000
  | .hardware => 0x00000004

/-- `VectorTarget(vec)` (R275), with what follows it: in `pointer` mode the handler's address is read from the
vector, and a value that is not a multiple of 4 is a reserved situation (R276; log 27); in `code` mode the vector's
own address is the target (log 4). -/
def vectorTarget (s : State) (v : Vec) : Host.Outcome Addr Fault Refusal :=
  match s.cfg.vectorMode with
  | .code => .next (vectorAddr v)
  | .pointer =>
    access s (vectorAddr v) 4
      (let t := BitVec.ofNat 32 (memRead s (vectorAddr v) 4)
       if t.toNat % 4 = 0 then .next t else .refused (.reservedVector t))

/-- `TrapEnter(vec, ret)` (R274): IR takes the return address, SR.K is set and the pc goes to the handler; nothing else
changes (log 15). -/
def trapEnter (v : Vec) (ret : Addr) (s : State) : Host.Outcome State Fault Refusal :=
  match vectorTarget s v with
  | .next t => .next { s with ir := ret, sr := withStatusBit s.sr 0 true, pc := t }
  | .fault f => .fault f
  | .refused r => .refused r

/-- The return from a trap (R281, R215): SR.K is cleared and the pc takes all 32 bits of IR (log 17). -/
def trapReturn (s : State) : State := { s with sr := withStatusBit s.sr 0 false, pc := s.ir }

/-! The interrupt input (R42, R272, R277; log 19) -/

/-- The request at the coming boundary. -/
def IrqInput.now : IrqInput → Bool
  | .held b => b
  | .free n => Config.irqInput n
  | .value b _ => b

/-- The input from the boundary after the coming one on. -/
def IrqInput.later : IrqInput → IrqInput
  | .held b => .held b
  | .free n => .free (n + 1)
  | .value _ i => i

/-- The request at the boundary that `n` others come before. -/
def IrqInput.after (i : IrqInput) : Nat → Bool
  | 0 => i.now
  | n + 1 => i.later.after n

/-- At this boundary an interrupt is taken: SR.I is set and the request holds (R277). K does not mask it (R273). -/
def State.takesInterrupt (s : State) : Bool := s.srI && s.irq.now

/-- The boundary is past: the next value of `irq` is the one for the next boundary. A request that was not taken is
not remembered (R273). -/
def State.sampled (s : State) : State := { s with irq := s.irq.later }

end Sys2Proof.Machine
end

