-- ==== Sys2Proof/Machine/Flags.lean ====
section
/-! DEFINITION. The conditions of a subtraction and the carry of an addition, at any width. The architecture keeps no
flag (R40): each condition is computed inside one instruction from its two operands and is stored nowhere. -/

namespace Sys2Proof.Machine

/-- Z of A - B (R152): the difference is zero. -/
def subZero (w : Nat) (a b : BitVec w) : Bool := a - b == 0

/-- C of A - B, the borrow (R152, R182): A is lower than B as unsigned integers. -/
def subBorrow (w : Nat) (a b : BitVec w) : Bool := a.toNat < b.toNat

/-- S of A - B (R152): the top bit of the difference, not corrected for overflow (C10). -/
def subSign (w : Nat) (a b : BitVec w) : Bool := (a - b).msb

/-- V of A - B (R152): the operands' top bits differ and the difference's top bit is not A's. -/
def subOverflow (w : Nat) (a b : BitVec w) : Bool := a.msb != b.msb && (a - b).msb != a.msb

/-- The carry out of A + B (R181). -/
def addCarry (w : Nat) (a b : BitVec w) : Bool := 2 ^ w ≤ a.toNat + b.toNat

end Sys2Proof.Machine
end

