-- ==== Sys2Proof/Machine/Operands.lean ====
section
/-! DEFINITION. The operand forms: effective addresses, immediates, operands and results at the operating width,
widened loads, and the shared shapes of the loads, stores, jumps and ALU instructions. -/

namespace Sys2Proof.Machine

/-! Addresses -/

/-- The effective address of a load or store (R131, R62, R242): the low 32 bits of base plus signed offset. -/
def effAddr (s : State) (a : Reg) (imm : BitVec 13) : Addr := (s.reg a + imm.signExtend 64).setWidth 32

/-- The target of a pc-relative jump before its low bits are cleared (R150, R155; log 11): the jump's own address plus the
signed offset. -/
def pcTarget {n : Nat} (s : State) (imm : BitVec n) : Addr := s.pc + imm.signExtend 32

/-- The target of an indirect jump before its low bits are cleared (R154, R242). -/
def regTarget (s : State) (a : Reg) (imm : BitVec 22) : Addr := (s.reg a + imm.signExtend 64).setWidth 32

/-! Loads and stores -/

/-- The value of an `n`-byte load, widened to the register per `LOAD_EXT` (R70, R135; log 8). -/
def widenLoad (c : Config) (n v : Nat) : RegVal :=
  match c.loadExt with
  | .zero => BitVec.ofNat 64 v
  | .sign => (BitVec.ofNat (8 * n) v).signExtend 64

/-- A load of `n` bytes at the effective address with its `k` low bits cleared (R69, R131). -/
def load (n k : Nat) (c a : Reg) (imm : BitVec 13) (s : State) : Host.Outcome State Fault Refusal :=
  let addr := align (effAddr s a imm) k
  access s addr n (.next (s.setReg c (widenLoad s.cfg n (memRead s addr n))).advance)

/-- A store of the `n` low bytes of register `b` at the effective address with its `k` low bits cleared (R69, R131). -/
def store (n k : Nat) (b a : Reg) (imm : BitVec 13) (s : State) : Host.Outcome State Fault Refusal :=
  let addr := align (effAddr s a imm) k
  access s addr n (.next (memWrite s addr n (s.reg b).toNat).advance)

/-! Jumps -/

/-- A condition of the operands at the operating width (R152, R242). -/
def condHolds (cond : (w : Nat) → BitVec w → BitVec w → Bool) (a b : Reg) (s : State) : Bool :=
  if s.wide then cond 64 (s.reg a) (s.reg b)
  else cond 32 ((s.reg a).setWidth 32) ((s.reg b).setWidth 32)

/-- A conditional jump (R152): the condition decides between the target and the next instruction. -/
def condJump (cond : (w : Nat) → BitVec w → BitVec w → Bool) (a b : Reg) (imm : BitVec 13) (s : State) :
    Host.Outcome State Fault Refusal :=
  .next (if condHolds cond a b s then s.jumpTo (pcTarget s imm) else s.advance)

/-! The ALU -/

/-- The immediate of opcode 0x01 at the operating width, per `ALU_IMM_EXT` (R104, R190, R242; log 7). -/
def aluImm (c : Config) (imm : BitVec 13) (w : Nat) : BitVec w :=
  match c.aluImmExt with
  | .zero => imm.setWidth w
  | .sign => imm.signExtend w

/-- The count of a shift, per `SHIFT_AMOUNT` (R171, R242; log 9). -/
def shiftCount (c : Config) (w : Nat) (b : BitVec w) : Nat :=
  match c.shiftAmount with
  | .full => b.toNat
  | .lowBits => b.toNat % w

/-- A 32-bit result widened to the destination register, whose old value is `old`, per `Q0_UPPER` (R243; log 24). -/
def fillUpper (m : Q0Upper) (old : RegVal) (r : BitVec 32) : RegVal :=
  match m with
  | .zero => r.setWidth 64
  | .sign => r.signExtend 64
  | .preserve => old.extractLsb' 32 32 ++ r

/-- The value an ALU instruction writes to register `c` (R170, R190, R242, R243): `f` of register `a` and the second
operand `b` at the operating width. -/
def aluResult (f : (w : Nat) → BitVec w → BitVec w → BitVec w) (c a : Reg) (b : (w : Nat) → BitVec w) (s : State) :
    RegVal :=
  if s.wide then f 64 (s.reg a) (b 64)
  else fillUpper s.cfg.q0Upper (s.reg c) (f 32 ((s.reg a).setWidth 32) (b 32))

/-- An ALU instruction (R170, R190): the result goes to register `c` and the pc advances. -/
def alu (f : (w : Nat) → BitVec w → BitVec w → BitVec w) (c a : Reg) (b : (w : Nat) → BitVec w) (s : State) :
    Host.Outcome State Fault Refusal :=
  .next (s.setReg c (aluResult f c a b s)).advance

/-- The register form, opcode 0x00 (R170). -/
def aluReg (f : (w : Nat) → BitVec w → BitVec w → BitVec w) (c a b : Reg) (s : State) :
    Host.Outcome State Fault Refusal :=
  alu f c a (fun w => (s.reg b).setWidth w) s

/-- The immediate form, opcode 0x01 (R190). -/
def aluRegImm (f : (w : Nat) → BitVec w → BitVec w → BitVec w) (c a : Reg) (imm : BitVec 13) (s : State) :
    Host.Outcome State Fault Refusal :=
  alu f c a (aluImm s.cfg imm) s

end Sys2Proof.Machine
end

