-- ==== Sys2Proof/Machine/Alu.lean ====
section
/-! DEFINITION. What the ALU operations compute, at any operating width `w` (R171 to R182, R261, R242). -/

namespace Sys2Proof.Machine

/-- A + B modulo 2^w (R172). -/
def aluAdd (w : Nat) (a b : BitVec w) : BitVec w := a + b
/-- A - B modulo 2^w (R173). -/
def aluSub (w : Nat) (a b : BitVec w) : BitVec w := a - b
/-- Bitwise and (R174). -/
def aluAnd (w : Nat) (a b : BitVec w) : BitVec w := a &&& b
/-- Bitwise or (R175). -/
def aluOr (w : Nat) (a b : BitVec w) : BitVec w := a ||| b
/-- Bitwise exclusive or (R176). -/
def aluXor (w : Nat) (a b : BitVec w) : BitVec w := a ^^^ b

/-- Logical right shift (R177). -/
def aluShr (c : Config) (w : Nat) (a b : BitVec w) : BitVec w :=
  if w ≤ shiftCount c w b then 0 else a >>> shiftCount c w b

/-- Arithmetic right shift (R178). -/
def aluAsr (c : Config) (w : Nat) (a b : BitVec w) : BitVec w :=
  if w ≤ shiftCount c w b then (if a.msb then BitVec.allOnes w else 0) else a.sshiftRight (shiftCount c w b)

/-- Logical left shift (R179). -/
def aluShl (c : Config) (w : Nat) (a b : BitVec w) : BitVec w :=
  if w ≤ shiftCount c w b then 0 else a <<< shiftCount c w b

/-- Arithmetic left shift (R180): the same result as the logical one (D9; log 10). -/
def aluAsl (c : Config) (w : Nat) (a b : BitVec w) : BitVec w :=
  if w ≤ shiftCount c w b then 0 else a <<< shiftCount c w b

/-- 1 when A + B carries out, else 0 (R181). -/
def aluCch (w : Nat) (a b : BitVec w) : BitVec w := if addCarry w a b then 1 else 0
/-- 1 when A - B borrows, else 0 (R182). -/
def aluBch (w : Nat) (a b : BitVec w) : BitVec w := if subBorrow w a b then 1 else 0

/-- The low bits of the product of the signed operands (R261 (a)). -/
def aluMul (w : Nat) (a b : BitVec w) : BitVec w := BitVec.ofInt w (a.toInt * b.toInt)

/-- The quotient of the signed operands, truncated toward zero (R261 (b), (d); log 22), or `DIV_ZERO` (R261 (e); log 21). -/
def aluDiv (w : Nat) (a b : BitVec w) : BitVec w :=
  if b = 0 then Config.divZero w .div a else BitVec.ofInt w (a.toInt.tdiv b.toInt)

/-- The remainder of that division (R261 (c), (d); log 22), or `DIV_ZERO` (R261 (e); log 21). -/
def aluMod (w : Nat) (a b : BitVec w) : BitVec w :=
  if b = 0 then Config.divZero w .mod a else BitVec.ofInt w (a.toInt - a.toInt.tdiv b.toInt * b.toInt)

end Sys2Proof.Machine
end

