-- ==== Sys2Proof/Machine/AluImm.lean ====
section
/-! DEFINITION. The ALU instructions with an immediate (`43_alu_immediate.md`, R190 to R201, opcode 0x01). -/

namespace Sys2Proof.Machine

/-- ADDI (R191). -/
def execAddi (c a : Reg) (imm : BitVec 13) (s : State) : Host.Outcome State Fault Refusal :=
  aluRegImm aluAdd c a imm s

/-- SUBI (R192). -/
def execSubi (c a : Reg) (imm : BitVec 13) (s : State) : Host.Outcome State Fault Refusal :=
  aluRegImm aluSub c a imm s

/-- ANDI (R193). -/
def execAndi (c a : Reg) (imm : BitVec 13) (s : State) : Host.Outcome State Fault Refusal :=
  aluRegImm aluAnd c a imm s

/-- ORI (R194). -/
def execOri (c a : Reg) (imm : BitVec 13) (s : State) : Host.Outcome State Fault Refusal := aluRegImm aluOr c a imm s

/-- XORI (R195). -/
def execXori (c a : Reg) (imm : BitVec 13) (s : State) : Host.Outcome State Fault Refusal :=
  aluRegImm aluXor c a imm s

/-- SHRI (R196). -/
def execShri (c a : Reg) (imm : BitVec 13) (s : State) : Host.Outcome State Fault Refusal :=
  aluRegImm (aluShr s.cfg) c a imm s

/-- ASRI (R197). -/
def execAsri (c a : Reg) (imm : BitVec 13) (s : State) : Host.Outcome State Fault Refusal :=
  aluRegImm (aluAsr s.cfg) c a imm s

/-- SHLI (R198). -/
def execShli (c a : Reg) (imm : BitVec 13) (s : State) : Host.Outcome State Fault Refusal :=
  aluRegImm (aluShl s.cfg) c a imm s

/-- ASLI (R199). -/
def execAsli (c a : Reg) (imm : BitVec 13) (s : State) : Host.Outcome State Fault Refusal :=
  aluRegImm (aluAsl s.cfg) c a imm s

/-- CCHI (R200). -/
def execCchi (c a : Reg) (imm : BitVec 13) (s : State) : Host.Outcome State Fault Refusal :=
  aluRegImm aluCch c a imm s

/-- BCHI (R201). -/
def execBchi (c a : Reg) (imm : BitVec 13) (s : State) : Host.Outcome State Fault Refusal :=
  aluRegImm aluBch c a imm s

end Sys2Proof.Machine
end

