-- ==== Sys2Proof/Machine/AluReg.lean ====
section
/-! DEFINITION. The ALU instructions on registers (`42_alu_register.md`, R170 to R182, opcode 0x00). -/

namespace Sys2Proof.Machine

/-- ADD (R172). -/
def execAdd (c a b : Reg) (s : State) : Host.Outcome State Fault Refusal := aluReg aluAdd c a b s

/-- SUB (R173). -/
def execSub (c a b : Reg) (s : State) : Host.Outcome State Fault Refusal := aluReg aluSub c a b s

/-- AND (R174). -/
def execAnd (c a b : Reg) (s : State) : Host.Outcome State Fault Refusal := aluReg aluAnd c a b s

/-- OR (R175). -/
def execOr (c a b : Reg) (s : State) : Host.Outcome State Fault Refusal := aluReg aluOr c a b s

/-- XOR (R176). -/
def execXor (c a b : Reg) (s : State) : Host.Outcome State Fault Refusal := aluReg aluXor c a b s

/-- SHR (R177). -/
def execShr (c a b : Reg) (s : State) : Host.Outcome State Fault Refusal := aluReg (aluShr s.cfg) c a b s

/-- ASR (R178). -/
def execAsr (c a b : Reg) (s : State) : Host.Outcome State Fault Refusal := aluReg (aluAsr s.cfg) c a b s

/-- SHL (R179). -/
def execShl (c a b : Reg) (s : State) : Host.Outcome State Fault Refusal := aluReg (aluShl s.cfg) c a b s

/-- ASL (R180). -/
def execAsl (c a b : Reg) (s : State) : Host.Outcome State Fault Refusal := aluReg (aluAsl s.cfg) c a b s

/-- CCH (R181). -/
def execCch (c a b : Reg) (s : State) : Host.Outcome State Fault Refusal := aluReg aluCch c a b s

/-- BCH (R182). -/
def execBch (c a b : Reg) (s : State) : Host.Outcome State Fault Refusal := aluReg aluBch c a b s

end Sys2Proof.Machine
end

