-- ==== Sys2Proof/Machine/Ext64.lean ====
section
/-! DEFINITION. The instructions of the 64-bit extension (`46_ext_64bit.md`, R244 to R247). None depends on the operating
width. `decode` admits them only with `HAS_Q64` (R113; log 34). -/

namespace Sys2Proof.Machine

/-- STQ (R244): `QUAD_IGNORED_BITS` low bits of the address are ignored. -/
def execStq (b a : Reg) (imm : BitVec 13) (s : State) : Host.Outcome State Fault Refusal :=
  store 8 s.cfg.quadIgnoredBits b a imm s

/-- LDQ (R245): `QUAD_IGNORED_BITS` low bits of the address are ignored. -/
def execLdq (c a : Reg) (imm : BitVec 13) (s : State) : Host.Outcome State Fault Refusal :=
  load 8 s.cfg.quadIgnoredBits c a imm s

/-- LUI.UU (R246): bits [63:42] are replaced, bits [41:0] kept (log 36). -/
def execLuiUU (c : Reg) (imm : BitVec 22) (s : State) : Host.Outcome State Fault Refusal :=
  .next (s.setReg c (imm ++ (s.reg c).extractLsb' 0 42)).advance

/-- LUI.LU (R247): bits [53:32] are replaced, the others kept (log 36). -/
def execLuiLU (c : Reg) (imm : BitVec 22) (s : State) : Host.Outcome State Fault Refusal :=
  .next (s.setReg c ((s.reg c).extractLsb' 54 10 ++ imm ++ (s.reg c).extractLsb' 0 32)).advance

end Sys2Proof.Machine
end

