-- ==== Sys2Proof/Machine/Jumps.lean ====
section
/-! DEFINITION. The jumps (`41_jumps.md`, R150 to R163). None writes a register or memory. -/

namespace Sys2Proof.Machine

/-- IRJ (R154). -/
def execIrj (a : Reg) (imm : BitVec 22) (s : State) : Host.Outcome State Fault Refusal :=
  .next (s.jumpTo (regTarget s a imm))

/-- JMP (R155). -/
def execJmp (imm : BitVec 27) (s : State) : Host.Outcome State Fault Refusal := .next (s.jumpTo (pcTarget s imm))

/-- JEQ (R156): taken when Z. -/
def execJeq (a b : Reg) (imm : BitVec 13) (s : State) : Host.Outcome State Fault Refusal := condJump subZero a b imm s

/-- JLT (R157): taken when C. -/
def execJlt (a b : Reg) (imm : BitVec 13) (s : State) : Host.Outcome State Fault Refusal :=
  condJump subBorrow a b imm s

/-- JSLT (R158): taken when S. -/
def execJslt (a b : Reg) (imm : BitVec 13) (s : State) : Host.Outcome State Fault Refusal :=
  condJump subSign a b imm s

/-- JSV (R159): taken when V. -/
def execJsv (a b : Reg) (imm : BitVec 13) (s : State) : Host.Outcome State Fault Refusal :=
  condJump subOverflow a b imm s

/-- JNE (R160): taken when not Z. -/
def execJne (a b : Reg) (imm : BitVec 13) (s : State) : Host.Outcome State Fault Refusal :=
  condJump (fun w x y => !subZero w x y) a b imm s

/-- JGE (R161): taken when not C. -/
def execJge (a b : Reg) (imm : BitVec 13) (s : State) : Host.Outcome State Fault Refusal :=
  condJump (fun w x y => !subBorrow w x y) a b imm s

/-- JSGE (R162): taken when not S. -/
def execJsge (a b : Reg) (imm : BitVec 13) (s : State) : Host.Outcome State Fault Refusal :=
  condJump (fun w x y => !subSign w x y) a b imm s

/-- JNSV (R163): taken when not V. -/
def execJnsv (a b : Reg) (imm : BitVec 13) (s : State) : Host.Outcome State Fault Refusal :=
  condJump (fun w x y => !subOverflow w x y) a b imm s

end Sys2Proof.Machine
end

