-- ==== Sys2Proof/Machine/LoadStore.lean ====
section
/-! DEFINITION. LUI, the stores and the loads (`40_lui_load_store.md`, R130 to R138). None depends on the operating width (R242). -/

namespace Sys2Proof.Machine

/-- LUI (R130): the immediate in bits [31:10], the low bits zero; at XLEN = 64 zero-extended (R242). -/
def execLui (c : Reg) (imm : BitVec 22) (s : State) : Host.Outcome State Fault Refusal :=
  .next (s.setReg c ((imm ++ (0 : BitVec 10) : BitVec 32).setWidth 64)).advance

/-- STB (R132). -/
def execStb (b a : Reg) (imm : BitVec 13) (s : State) : Host.Outcome State Fault Refusal := store 1 0 b a imm s

/-- STW (R133): bit 0 of the address is ignored. -/
def execStw (b a : Reg) (imm : BitVec 13) (s : State) : Host.Outcome State Fault Refusal := store 2 1 b a imm s

/-- STD (R134): bits [1:0] of the address are ignored. -/
def execStd (b a : Reg) (imm : BitVec 13) (s : State) : Host.Outcome State Fault Refusal := store 4 2 b a imm s

/-- LDB (R136). -/
def execLdb (c a : Reg) (imm : BitVec 13) (s : State) : Host.Outcome State Fault Refusal := load 1 0 c a imm s

/-- LDW (R137): bit 0 of the address is ignored. -/
def execLdw (c a : Reg) (imm : BitVec 13) (s : State) : Host.Outcome State Fault Refusal := load 2 1 c a imm s

/-- LDD (R138): bits [1:0] of the address are ignored. -/
def execLdd (c a : Reg) (imm : BitVec 13) (s : State) : Host.Outcome State Fault Refusal := load 4 2 c a imm s

end Sys2Proof.Machine
end

