-- ==== Sys2Proof/Machine/MulDiv.lean ====
section
/-! DEFINITION. The multiplication and division extension (`47_ext_muldiv.md`, R260 to R267). `decode` admits these
instructions only with `HAS_MULDIV` (R113; log 34). -/

namespace Sys2Proof.Machine

/-- MUL (R262). -/
def execMul (c a b : Reg) (s : State) : Host.Outcome State Fault Refusal := aluReg aluMul c a b s

/-- DIV (R263). -/
def execDiv (c a b : Reg) (s : State) : Host.Outcome State Fault Refusal := aluReg aluDiv c a b s

/-- MOD (R264). -/
def execMod (c a b : Reg) (s : State) : Host.Outcome State Fault Refusal := aluReg aluMod c a b s

/-- MULI (R265). -/
def execMuli (c a : Reg) (imm : BitVec 13) (s : State) : Host.Outcome State Fault Refusal :=
  aluRegImm aluMul c a imm s

/-- DIVI (R266). -/
def execDivi (c a : Reg) (imm : BitVec 13) (s : State) : Host.Outcome State Fault Refusal :=
  aluRegImm aluDiv c a imm s

/-- MODI (R267). -/
def execModi (c a : Reg) (imm : BitVec 13) (s : State) : Host.Outcome State Fault Refusal :=
  aluRegImm aluMod c a imm s

end Sys2Proof.Machine
end

