-- ==== Sys2Proof/Machine/System.lean ====
section
/-! DEFINITION. The system instructions (`44_system.md`, R210 to R215). -/

namespace Sys2Proof.Machine

/-- SYSCAL (R210, R278): trap entry through the software vector, in either mode; IR takes the address of the next
instruction (log 15). -/
def execSyscal (s : State) : Host.Outcome State Fault Refusal := trapEnter .software (s.pc + 4) s

/-- SSB n (R212, R213): in kernel mode it sets status bit I, P or Q; in user mode, or for another number, it does
nothing but advance (log 14). -/
def execSsb (n : BitVec 5) (s : State) : Host.Outcome State Fault Refusal :=
  .next (if s.srK ∧ 1 ≤ n.toNat ∧ n.toNat ≤ 3 then { s with sr := withStatusBit s.sr n.toNat true } else s).advance

/-- CSB n (R214, R213): in kernel mode it clears status bit I, P or Q; in user mode, or for another number, it does
nothing but advance (log 14). -/
def execCsb (n : BitVec 5) (s : State) : Host.Outcome State Fault Refusal :=
  .next (if s.srK ∧ 1 ≤ n.toNat ∧ n.toNat ≤ 3 then { s with sr := withStatusBit s.sr n.toNat false } else s).advance

/-- URT (R215): return from a trap, in either mode. -/
def execUrt (s : State) : Host.Outcome State Fault Refusal := .next (trapReturn s)

end Sys2Proof.Machine
end

