-- ==== Sys2Proof/Machine/Dispatch.lean ====
section
/-! DEFINITION. The meaning of each instruction, one arm a constructor. -/

namespace Sys2Proof.Machine

/-- The effect of an instruction on a state whose program counter is the instruction's address (R13 step 4). -/
def exec (i : Instr) (s : State) : Host.Outcome State Fault Refusal :=
  match i with
  | .syscal => Sys2Proof.Machine.execSyscal s
  | .lui c imm => Sys2Proof.Machine.execLui c imm s
  | .stb b a imm => Sys2Proof.Machine.execStb b a imm s
  | .stw b a imm => Sys2Proof.Machine.execStw b a imm s
  | .std b a imm => Sys2Proof.Machine.execStd b a imm s
  | .ldb c a imm => Sys2Proof.Machine.execLdb c a imm s
  | .ldw c a imm => Sys2Proof.Machine.execLdw c a imm s
  | .ldd c a imm => Sys2Proof.Machine.execLdd c a imm s
  | .irj a imm => Sys2Proof.Machine.execIrj a imm s
  | .jmp imm => Sys2Proof.Machine.execJmp imm s
  | .jeq a b imm => Sys2Proof.Machine.execJeq a b imm s
  | .jlt a b imm => Sys2Proof.Machine.execJlt a b imm s
  | .jslt a b imm => Sys2Proof.Machine.execJslt a b imm s
  | .jsv a b imm => Sys2Proof.Machine.execJsv a b imm s
  | .jne a b imm => Sys2Proof.Machine.execJne a b imm s
  | .jge a b imm => Sys2Proof.Machine.execJge a b imm s
  | .jsge a b imm => Sys2Proof.Machine.execJsge a b imm s
  | .jnsv a b imm => Sys2Proof.Machine.execJnsv a b imm s
  | .add c a b => Sys2Proof.Machine.execAdd c a b s
  | .sub c a b => Sys2Proof.Machine.execSub c a b s
  | .and c a b => Sys2Proof.Machine.execAnd c a b s
  | .or c a b => Sys2Proof.Machine.execOr c a b s
  | .xor c a b => Sys2Proof.Machine.execXor c a b s
  | .shr c a b => Sys2Proof.Machine.execShr c a b s
  | .asr c a b => Sys2Proof.Machine.execAsr c a b s
  | .shl c a b => Sys2Proof.Machine.execShl c a b s
  | .asl c a b => Sys2Proof.Machine.execAsl c a b s
  | .cch c a b => Sys2Proof.Machine.execCch c a b s
  | .bch c a b => Sys2Proof.Machine.execBch c a b s
  | .addi c a imm => Sys2Proof.Machine.execAddi c a imm s
  | .subi c a imm => Sys2Proof.Machine.execSubi c a imm s
  | .andi c a imm => Sys2Proof.Machine.execAndi c a imm s
  | .ori c a imm => Sys2Proof.Machine.execOri c a imm s
  | .xori c a imm => Sys2Proof.Machine.execXori c a imm s
  | .shri c a imm => Sys2Proof.Machine.execShri c a imm s
  | .asri c a imm => Sys2Proof.Machine.execAsri c a imm s
  | .shli c a imm => Sys2Proof.Machine.execShli c a imm s
  | .asli c a imm => Sys2Proof.Machine.execAsli c a imm s
  | .cchi c a imm => Sys2Proof.Machine.execCchi c a imm s
  | .bchi c a imm => Sys2Proof.Machine.execBchi c a imm s
  | .ssb n => Sys2Proof.Machine.execSsb n s
  | .csb n => Sys2Proof.Machine.execCsb n s
  | .urt => Sys2Proof.Machine.execUrt s
  | .stq b a imm => Sys2Proof.Machine.execStq b a imm s
  | .ldq c a imm => Sys2Proof.Machine.execLdq c a imm s
  | .luiUU c imm => Sys2Proof.Machine.execLuiUU c imm s
  | .luiLU c imm => Sys2Proof.Machine.execLuiLU c imm s
  | .mul c a b => Sys2Proof.Machine.execMul c a b s
  | .div c a b => Sys2Proof.Machine.execDiv c a b s
  | .mod c a b => Sys2Proof.Machine.execMod c a b s
  | .muli c a imm => Sys2Proof.Machine.execMuli c a imm s
  | .divi c a imm => Sys2Proof.Machine.execDivi c a imm s
  | .modi c a imm => Sys2Proof.Machine.execModi c a imm s

end Sys2Proof.Machine
end

