-- ==== Sys2Proof/Machine/Fetch.lean ====
section
/-! DEFINITION. Fetching and decoding the instruction at the program counter (R13 steps 2 and 3, R68), and placing one
there from outside the machine. -/

namespace Sys2Proof.Machine

/-- The word that a fetch reads (R68). -/
def fetchWord (s : State) : Insn := BitVec.ofNat 32 (memRead s s.pc 4)

/-- Fetch and decode (R13 steps 2 and 3): a fetch outside `MEM_POPULATED` faults (R64), a reserved encoding is refused
(R111). -/
def fetch (s : State) : Host.Outcome Instr Fault Refusal :=
  access s s.pc 4
    (match decode s.cfg (fetchWord s) with
     | .ok i => .next i
     | .error r => .refused (.reservedEncoding r))

/-- The state with a 32-bit word stored where the next fetch reads it. -/
def placeWord (s : State) (w : Nat) : State := memWrite s s.pc 4 w

/-- The state with no interrupt request at the coming boundary. -/
def withdrawRequest (s : State) : State :=
  { s with irq := .value false s.irq.later }

end Sys2Proof.Machine
end

