-- ==== Sys2Proof/Machine/Step.lean ====
section
/-! DEFINITION. One step of the machine (R13), and placing an instruction where the next step fetches it. -/

namespace Sys2Proof.Machine

/-- One step (R13): if a hardware interrupt is to be taken, trap entry with the address of the instruction not yet
executed (R277), and the step ends; otherwise fetch, decode and execute. Either way the interrupt input moves on to
the next boundary. -/
def step (s : State) : Host.Outcome State Fault Refusal :=
  if s.takesInterrupt then trapEnter .hardware s.pc s.sampled
  else
    match fetch s with
    | .next i => exec i s.sampled
    | .fault f => .fault f
    | .refused r => .refused r

/-- The state with the word `w`, whose bits from `nbits` on are zero, stored at the program counter in the byte order of
the configuration, and with no interrupt request at the coming boundary, so that the next step runs it (log 31). -/
def State.withFetchWord (s : State) (nbits w : Nat) : State := withdrawRequest (placeWord s (w % 2 ^ nbits))

end Sys2Proof.Machine
end

