-- ==== Sys2Proof/Safety.lean ====
section
/-! DEFINITION. The terms in which claims speak of runs: the invariant of a state, runs, when a run stops or has ended,
sequences of instructions (the expansions of the pseudo-instructions), and the classes of instructions. -/

namespace Sys2Proof.Machine

/-- Without the 64-bit extension the registers are 32 bits wide (R20): the storage above is zero. -/
abbrev State.gprFits (s : State) : Prop :=
  s.cfg.hasQ64 = false → ∀ k : Fin 28, (s.reg (.gpr k)).toNat < 2 ^ 32

/-- What holds of a state right after reset and of every state a step leads to. -/
structure State.Inv (s : State) : Prop where
  /-- The ignored-bit parameters have values the spec names (C16, C17). -/
  cfgWf : s.cfg.wf = true
  /-- The pc is a multiple of 4 (R38). -/
  pcAligned : s.pc.toNat % 4 = 0
  /-- IR is a multiple of 4 (R38). -/
  irAligned : s.ir.toNat % 4 = 0
  /-- Memory is in its canonical form. -/
  memWf : s.mem.wf = true
  /-- Registers fit `XLEN` (R20). -/
  gprFits : s.gprFits

/-- A step of this state stops, with a fault or a refusal. -/
def State.stops (s : State) : Prop := ∀ t, step s ≠ .next t

/-- `n` steps, up to the first fault or refusal. -/
def steps : Nat → State → Host.Outcome State Fault Refusal
  | 0, s => .next s
  | n + 1, s =>
    match step s with
    | .next t => steps n t
    | .fault f => .fault f
    | .refused r => .refused r

/-- A run from this state never stops. -/
def State.safe (s : State) : Prop := ∀ n, ∃ t, steps n s = .next t

/-- The convention for the end of a run (R292, D30; log 39): the pc is a multiple of 8, `JMP 0` stands there and no hardware
interrupt can be taken, because SR.I is 0 or the request is false from then on. -/
def State.ended (s : State) : Prop :=
  s.pc.toNat % 8 = 0 ∧ fetchWord s = 0x30000000 ∧ (s.srI = false ∨ ∀ n, s.irq.after n = false)

/-- Executing instructions one after the other, whatever stands in memory, up to the first fault or refusal: the
effect of a pseudo-instruction's expansion (R220). -/
def execAll : List Instr → State → Host.Outcome State Fault Refusal
  | [], s => .next s
  | i :: is, s =>
    match exec i s with
    | .next t => execAll is t
    | .fault f => .fault f
    | .refused r => .refused r

/-- The registers that an instruction's source fields A and B name (R22). -/
def sourceRegs : Instr → List Reg
  | .syscal | .urt | .ssb _ | .csb _ | .jmp _ | .lui _ _ | .luiUU _ _ | .luiLU _ _ => []
  | .irj a _ => [a]
  | .ldb _ a _ | .ldw _ a _ | .ldd _ a _ | .ldq _ a _ => [a]
  | .stb b a _ | .stw b a _ | .std b a _ | .stq b a _ => [a, b]
  | .jeq a b _ | .jlt a b _ | .jslt a b _ | .jsv a b _
  | .jne a b _ | .jge a b _ | .jsge a b _ | .jnsv a b _ => [a, b]
  | .add _ a b | .sub _ a b | .and _ a b | .or _ a b | .xor _ a b | .shr _ a b | .asr _ a b
  | .shl _ a b | .asl _ a b | .cch _ a b | .bch _ a b | .mul _ a b | .div _ a b | .mod _ a b => [a, b]
  | .addi _ a _ | .subi _ a _ | .andi _ a _ | .ori _ a _ | .xori _ a _ | .shri _ a _ | .asri _ a _
  | .shli _ a _ | .asli _ a _ | .cchi _ a _ | .bchi _ a _ | .muli _ a _ | .divi _ a _ | .modi _ a _ => [a]

/-- The jumps, SYSCAL and URT: the instructions that may leave the sequence (R37). -/
def leavesSequence : Instr → Bool
  | .irj _ _ | .jmp _ | .jeq _ _ _ | .jlt _ _ _ | .jslt _ _ _ | .jsv _ _ _
  | .jne _ _ _ | .jge _ _ _ | .jsge _ _ _ | .jnsv _ _ _ | .syscal | .urt => true
  | .lui _ _ | .stb _ _ _ | .stw _ _ _ | .std _ _ _ | .stq _ _ _ | .ldb _ _ _ | .ldw _ _ _ | .ldd _ _ _ | .ldq _ _ _
  | .luiUU _ _ | .luiLU _ _ | .ssb _ | .csb _
  | .add _ _ _ | .sub _ _ _ | .and _ _ _ | .or _ _ _ | .xor _ _ _ | .shr _ _ _ | .asr _ _ _
  | .shl _ _ _ | .asl _ _ _ | .cch _ _ _ | .bch _ _ _ | .mul _ _ _ | .div _ _ _ | .mod _ _ _
  | .addi _ _ _ | .subi _ _ _ | .andi _ _ _ | .ori _ _ _ | .xori _ _ _ | .shri _ _ _ | .asri _ _ _
  | .shli _ _ _ | .asli _ _ _ | .cchi _ _ _ | .bchi _ _ _ | .muli _ _ _ | .divi _ _ _ | .modi _ _ _ => false

/-- The stores (R61). -/
def isStore : Instr → Bool
  | .stb _ _ _ | .stw _ _ _ | .std _ _ _ | .stq _ _ _ => true
  | .syscal | .urt | .irj _ _ | .jmp _ | .jeq _ _ _ | .jlt _ _ _ | .jslt _ _ _ | .jsv _ _ _
  | .jne _ _ _ | .jge _ _ _ | .jsge _ _ _ | .jnsv _ _ _
  | .lui _ _ | .ldb _ _ _ | .ldw _ _ _ | .ldd _ _ _ | .ldq _ _ _ | .luiUU _ _ | .luiLU _ _ | .ssb _ | .csb _
  | .add _ _ _ | .sub _ _ _ | .and _ _ _ | .or _ _ _ | .xor _ _ _ | .shr _ _ _ | .asr _ _ _
  | .shl _ _ _ | .asl _ _ _ | .cch _ _ _ | .bch _ _ _ | .mul _ _ _ | .div _ _ _ | .mod _ _ _
  | .addi _ _ _ | .subi _ _ _ | .andi _ _ _ | .ori _ _ _ | .xori _ _ _ | .shri _ _ _ | .asri _ _ _
  | .shli _ _ _ | .asli _ _ _ | .cchi _ _ _ | .bchi _ _ _ | .muli _ _ _ | .divi _ _ _ | .modi _ _ _ => false

end Sys2Proof.Machine
end

