-- ==== Sys2Proof/Certificates/Slice0/Obligations.lean ====
section
/-! DEFINITION. The statements for the provers. The vocabulary comes first, in the spec's own terms: unsigned and
signed numbers of a stated width, fields of an instruction word, bytes of a value. -/

namespace Sys2Proof.Spec

open Sys2Proof.Machine

/-! Operands as numbers -/

/-- The operating width W (R32). -/
def width (s : State) : Nat := if s.wide then 64 else 32

/-- The W low bits of a register as an unsigned integer (R10, R242). -/
def uval (s : State) (r : Reg) : Nat := (s.reg r).toNat % 2 ^ width s

/-- The 32 low bits of a register as an unsigned integer: all of it in the base architecture (R20). -/
def low (s : State) (r : Reg) : Nat := (s.reg r).toNat % 2 ^ 32

/-- `signed_w`: a `w`-bit number read as two's complement (R10). -/
def signed (w n : Nat) : Int := if n < 2 ^ (w - 1) then (n : Int) else (n : Int) - 2 ^ w

/-- The W low bits of a register as a signed integer. -/
def sval (s : State) (r : Reg) : Int := signed (width s) (uval s r)

/-- The immediate of opcode 0x01 at width W, per `ALU_IMM_EXT` (R104). -/
def uimm (s : State) (imm : BitVec 13) : Nat :=
  match s.cfg.aluImmExt with
  | .zero => imm.toNat
  | .sign => if imm.toNat < 4096 then imm.toNat else 2 ^ width s - 8192 + imm.toNat

/-- The count of a shift by the operand `n`, per `SHIFT_AMOUNT` (R171). -/
def count (s : State) (n : Nat) : Nat :=
  match s.cfg.shiftAmount with
  | .full => n
  | .lowBits => n % width s

/-! What stays as it was -/

/-- Every general register but `c`, IR, SR, the configuration, the interrupt input and every byte of memory are the
same in `t` as in `s`. (`c` may be a register that cannot be written: then all of r1 to r28 are the same.) -/
structure SameBut (s t : State) (c : Reg) : Prop where
  gpr : ∀ k : Fin 28, c ≠ .gpr k → t.reg (.gpr k) = s.reg (.gpr k)
  ir : t.ir = s.ir
  sr : t.sr = s.sr
  mem : ∀ x, t.mem.read x = s.mem.read x
  cfg : t.cfg = s.cfg
  irq : t.irq = s.irq

/-! What an ALU instruction gives -/

/-- Bits [63:32] of the destination of an ALU instruction in 32-bit mode with the 64-bit extension, per `Q0_UPPER` (R243). -/
def upper (s : State) (c : Reg) (n : Nat) : Nat :=
  match s.cfg.q0Upper with
  | .zero => 0
  | .sign => if n < 2 ^ 31 then 0 else 2 ^ 32 - 1
  | .preserve => (s.reg c).toNat / 2 ^ 32

/-- The whole register after an ALU instruction whose W-bit result is `n` (R242, R243). -/
def widened (s : State) (c : Reg) (n : Nat) : Nat :=
  if s.wide then n else if s.cfg.hasQ64 then n + 2 ^ 32 * upper s c n else n

/-- The instruction completes: the pc advances by 4, register `c` (where it can be written) holds the number `n` and
nothing else changes. -/
def Gives (i : Instr) (s : State) (c : Reg) (n : Nat) : Prop :=
  ∃ t, exec i s = .next t ∧ t.pc = s.pc + 4 ∧ SameBut s t c ∧ ∀ k, c = .gpr k → (t.reg c).toNat = n

/-- The instruction completes with the W-bit result `n`, widened to the register. -/
def AluGives (i : Instr) (s : State) (c : Reg) (n : Nat) : Prop := Gives i s c (widened s c n)

/-! Instruction words as numbers (R94 to R102) -/

/-- The number of a register (R20). -/
def regNum : Reg → Nat
  | .zr => 0
  | .gpr k => k.val + 1
  | .ir => 29
  | .ip => 30
  | .sr => 31

/-- Format RI (R94). -/
def wordRI (op : Nat) (c : Reg) (imm : BitVec 22) : Nat := op * 2 ^ 27 + regNum c * 2 ^ 22 + imm.toNat

/-- Format RI2 (R95). -/
def wordRI2 (op : Nat) (a : Reg) (imm : BitVec 22) : Nat :=
  op * 2 ^ 27 + imm.toNat / 2 ^ 17 * 2 ^ 22 + regNum a * 2 ^ 17 + imm.toNat % 2 ^ 17

/-- Format RRR (R97). -/
def wordRRR (op fn : Nat) (c a b : Reg) : Nat :=
  op * 2 ^ 27 + regNum c * 2 ^ 22 + regNum a * 2 ^ 17 + fn * 2 ^ 13 + regNum b * 2 ^ 8

/-- Format RRI2 (R99). -/
def wordRRI2 (op fn : Nat) (a b : Reg) (imm : BitVec 13) : Nat :=
  op * 2 ^ 27 + imm.toNat / 2 ^ 8 * 2 ^ 22 + regNum a * 2 ^ 17 + fn * 2 ^ 13 + regNum b * 2 ^ 8 + imm.toNat % 2 ^ 8

/-! Memory -/

/-- The place, counted from the lowest address of an access of `n` bytes, of the byte of significance `j` (R66, R67). -/
def bytePlace (e : Endian) (n j : Nat) : Nat :=
  match e with
  | .little => j
  | .big => n - 1 - j

/-- The address of the byte of significance `j` of an access of `n` bytes at `addr`. -/
def byteAddr (s : State) (addr : Addr) (n j : Nat) : Nat := (addr + BitVec.ofNat 32 (bytePlace s.cfg.endian n j)).toNat

/-- A store completes: the pc advances by 4, the `n` bytes from `addr` up hold the `n` low bytes of `v` and nothing
else changes, no other byte of memory and no register. -/
def StoreGives (i : Instr) (s : State) (addr : Addr) (n v : Nat) : Prop :=
  ∃ t, exec i s = .next t ∧ t.pc = s.pc + 4 ∧ (∀ k, t.reg (.gpr k) = s.reg (.gpr k)) ∧ t.ir = s.ir ∧ t.sr = s.sr ∧
    t.cfg = s.cfg ∧ t.irq = s.irq ∧
    (∀ j < n, (t.mem.read (byteAddr s addr n j)).toNat = v / 256 ^ j % 256) ∧
    ∀ x, (∀ j < n, x ≠ (addr + BitVec.ofNat 32 j).toNat) → t.mem.read x = s.mem.read x

/-- The part of a loaded register above its `n` bytes, per `LOAD_EXT` (R135): zeros, or copies of the top bit of the
most significant byte up to the register's width. -/
def loadUpper (s : State) (addr : Addr) (n : Nat) : Nat :=
  match s.cfg.loadExt with
  | .zero => 0
  | .sign => if (s.mem.read (byteAddr s addr n (n - 1))).toNat < 128 then 0 else 2 ^ (s.cfg.xlen - 8 * n) - 1

/-- A load completes: the pc advances by 4, register `c` (where it can be written) holds the `n` bytes from `addr` up,
widened, and nothing else changes. -/
def LoadGives (i : Instr) (s : State) (c : Reg) (addr : Addr) (n : Nat) : Prop :=
  ∃ t, exec i s = .next t ∧ t.pc = s.pc + 4 ∧ SameBut s t c ∧ ∀ k, c = .gpr k →
    (∀ j < n, (t.reg c).toNat / 256 ^ j % 256 = (s.mem.read (byteAddr s addr n j)).toNat) ∧
    (t.reg c).toNat / 256 ^ n = loadUpper s addr n

/-! Jumps -/

/-- Where a jump from `base` by the signed offset `off` lands: the sum modulo 2^32 with its `k` low bits cleared (R151). -/
def landing (k base : Nat) (off : Int) : Addr :=
  BitVec.ofNat 32 (((base + off) % 2 ^ 32).toNat / 2 ^ k * 2 ^ k)

/-- A conditional jump completes: taken where `p` holds, else it advances by 4; nothing but the pc changes. -/
def JumpsIf (i : Instr) (s : State) (imm : BitVec 13) (p : Prop) : Prop :=
  (p → exec i s = .next { s with pc := landing s.cfg.jumpIgnoredBits s.pc.toNat (signed 13 imm.toNat) }) ∧
  (¬p → exec i s = .next { s with pc := s.pc + 4 })

/-- S of a - b at width `w` (R152): the top bit of the difference. -/
def signBit (w a b : Nat) : Prop := 2 ^ (w - 1) ≤ (a + 2 ^ w - b) % 2 ^ w

/-- V of a - b at width `w` (R152): the true difference is outside the signed range. -/
def overflows (w a b : Nat) : Prop :=
  signed w a - signed w b < -2 ^ (w - 1) ∨ 2 ^ (w - 1) ≤ signed w a - signed w b

/-! Outcomes that differ in one bit of SR -/

/-- Two states that differ at most in bit `n` of SR. -/
def AgreeBut (n : Nat) (s t : State) : Prop := (∀ m, m ≠ n → t.sr.getLsbD m = s.sr.getLsbD m) ∧ t = { s with sr := t.sr }

/-- Two outcomes that differ at most in bit `n` of the next state's SR. -/
def OutcomesAgreeBut (n : Nat) : Host.Outcome State Fault Refusal → Host.Outcome State Fault Refusal → Prop
  | .next s, .next t => AgreeBut n s t
  | .fault f, .fault g => f = g
  | .refused q, .refused r => q = r
  | _, _ => False

/-- An instruction that neither reads SR through a source field nor is SSB or CSB. -/
def IgnoresSr (i : Instr) : Prop := Reg.sr ∉ sourceRegs i ∧ i.statusBit? = none

/-- The address that a trap through vector `v` continues at (R275): the vector's value, or, with `VECTOR_MODE = code`,
its address. -/
def TrapTarget (s : State) (v : Vec) (target : Addr) : Prop :=
  (s.cfg.vectorMode = .code ∧ target = vectorAddr v) ∨
  (s.cfg.vectorMode = .pointer ∧ backs s.cfg (vectorAddr v) 4 = true ∧
    target = BitVec.ofNat 32 (memRead s (vectorAddr v) 4) ∧ target.toNat % 4 = 0)

/-- No interrupt is taken at the coming boundary (R277): SR.I is 0 or the request is false. -/
def NoInterrupt (s : State) : Prop := s.sr.getLsbD 1 = false ∨ s.irq.now = false

/-- The word at the pc is populated and decodes to `i`. -/
def Fetches (s : State) (i : Instr) : Prop := backs s.cfg s.pc 4 = true ∧ decode s.cfg (fetchWord s) = .ok i

end Sys2Proof.Spec

open Sys2Proof Sys2Proof.Machine Sys2Proof.Spec

/-! Registers -/

/-- R23: "`x[0]` returns 0 always". -/
def Obligations.ZeroRegisterReadsZero : Prop := ∀ s : State, (s.reg .zr).toNat = 0

/-- R26: r31 reads as the four status bits, whatever the mode; that the bits above read 0 is R35, the spec's choice D12
(log 13). -/
def Obligations.StatusRegisterRead : Prop :=
  ∀ s : State, (∀ n < 4, (s.reg .sr).getLsbD n = s.sr.getLsbD n) ∧ (∀ n, 4 ≤ n → (s.reg .sr).getLsbD n = false)

/-- R24: r29 reads as IR, zero-extended; IR is written by the two traps and by nothing else. That a trap saves the
address it saves is the choice of log 15, so the statement only says who writes IR. -/
def Obligations.OnlyTrapsWriteInterruptPointer : Prop :=
  (∀ s : State, (s.reg .ir).toNat = s.ir.toNat) ∧
  (∀ s t : State, step s = .next t → t.ir ≠ s.ir → s.takesInterrupt = true ∨ Fetches s .syscal) ∧
  (∀ (i : Instr) (s t : State), exec i s = .next t → i ≠ .syscal → t.ir = s.ir) ∧
  ∀ (s : State) (v : RegVal), s.setReg .ir v = s

/-- R27: a write of one register leaves every other as it was, and an instruction that names one register as source and
destination uses its old value. -/
def Obligations.RegistersDoNotAlias : Prop :=
  (∀ (s : State) (r r' : Reg) (v : RegVal), r ≠ r' → (s.setReg r v).reg r' = s.reg r') ∧
  (∀ (s : State) (k : Fin 28) (v : RegVal), s.cfg.hasQ64 = true → (s.setReg (.gpr k) v).reg (.gpr k) = v) ∧
  ∀ (s : State) (k : Fin 28), s.cfg.hasQ64 = false →
    Gives (.add (.gpr k) (.gpr k) (.gpr k)) s (.gpr k) (2 * low s (.gpr k) % 2 ^ 32)

/-- R28, the spec's choice D11 (log 12): a write to r0, r29, r30 or r31 has no effect on any state. R25, derived by the
spec from the JAL expansion: r30 reads as the address of the reading instruction. -/
def Obligations.ReadOnlyRegisters : Prop :=
  (∀ (s : State) (r : Reg) (v : RegVal), r.writable = false → s.setReg r v = s) ∧
  ∀ s : State, (s.reg .ip).toNat = s.pc.toNat

/-! Reset and the invariant -/

/-- R300: reset sets pc to 0x8, saves nothing in IR and touches neither registers nor memory, whatever the values that
the manual leaves unspecified; the first fetch is at 0x8. -/
def Obligations.ResetProgramCounter : Prop :=
  State.reset.pc = 0x00000008 ∧
  ∀ (c : Config) (gpr : Vector RegVal 28) (ir : Addr) (mem : Memory) (irq : IrqInput),
    let s := State.resetWith c gpr ir mem irq
    s.pc = 0x00000008 ∧ s.ir = ir ∧ s.mem = mem ∧ s.gpr = gpr ∧ fetchWord s = BitVec.ofNat 32 (memRead s 0x00000008 4)

/-- The invariant holds right after reset. The values of IR, registers and parameters are the model's choices of logs 2,
28, 29, 30 and 33. -/
def Obligations.InvariantHoldsAtReset : Prop := State.reset.Inv

/-- Every step keeps the invariant: pc and IR are multiples of 4 (R38), memory stays canonical, registers stay within
`XLEN` (R20). -/
def Obligations.StepKeepsInvariant : Prop := ∀ s t : State, s.Inv → step s = .next t → t.Inv

/-- No step changes a parameter, and every step moves the interrupt input on by one boundary (model's form, logs 1, 19). -/
def Obligations.StepKeepsConfiguration : Prop :=
  ∀ s t : State, step s = .next t → t.cfg = s.cfg ∧ t.irq = s.irq.later

/-! Encoding -/

/-- Decoding the word of a well-formed instruction gives the instruction back, in every configuration. -/
def Obligations.DecodeEncodeRoundTrip : Prop :=
  ∀ (c : Config) (i : Instr), i.wellFormed c = true → decode c (encode c i) = .ok i

/-- With `UNUSED_BITS = must_be_zero` a word that decodes is the word of the instruction it decodes to: no word has two
meanings and no instruction two words. -/
def Obligations.EncodeDecodeRoundTrip : Prop :=
  ∀ (c : Config) (w : Insn) (i : Instr), c.unusedBits = .mustBeZero → decode c w = .ok i →
    i.wellFormed c = true ∧ encode c i = w

/-- Words of `95_test_vectors.md`, part 2.1, decode to the instructions they stand for. -/
def Obligations.SampleWordsDecode : Prop :=
  decode defaultConfig 0x00C20200 = .ok (.add .a2 .a0 .a1) ∧
  decode defaultConfig 0x08C2C064 = .ok (.asri .a2 .a0 100) ∧
  decode defaultConfig 0x107FFFFF = .ok (.lui .a0 0x3FFFFF) ∧
  decode defaultConfig 0x1FC242FA = .ok (.std .a1 .a0 (BitVec.ofInt 13 (-6))) ∧
  decode defaultConfig 0x20C21FFF = .ok (.ldb .a2 .a0 (BitVec.ofInt 13 (-1))) ∧
  decode defaultConfig 0x2FC3FFF0 = .ok (.irj .a0 (BitVec.ofInt 22 (-16))) ∧
  decode defaultConfig 0x37FFFFF8 = .ok (.jmp (BitVec.ofInt 27 (-8))) ∧
  decode defaultConfig 0x3FC202F0 = .ok (.jeq .a0 .a1 (BitVec.ofInt 13 (-16))) ∧
  decode defaultConfig 0x50C00000 = .ok (.csb 1) ∧
  decode defaultConfig 0x607FFFFF = .ok (.luiLU .a0 0x3FFFFF) ∧
  decode defaultConfig 0x00C3A200 = .ok (.mod .a2 .a0 .a1)

/-- The reserved encodings of R111 (D24, log 26) have no meaning: an unassigned opcode, an unassigned function value, an
instruction of an absent extension, a non-zero unused bit where they must be zero. A step that fetches one is
refused. -/
def Obligations.ReservedEncodingsRefused : Prop :=
  (∀ (c : Config) (w : Insn), let op := w.toNat / 2 ^ 27; let fn := w.toNat / 2 ^ 13 % 2 ^ 4
    (0x0D ≤ op ∨ ((op = 0x00 ∨ op = 0x01) ∧ 0xE ≤ fn) ∨ ((op = 0x03 ∨ op = 0x04) ∧ 0x4 ≤ fn) ∨ (op = 0x07 ∧ 0x8 ≤ fn) ∨
      (c.hasMulDiv = false ∧ (op = 0x00 ∨ op = 0x01) ∧ 0xB ≤ fn) ∨
      (c.hasQ64 = false ∧ (((op = 0x03 ∨ op = 0x04) ∧ fn = 0x3) ∨ op = 0x0B ∨ op = 0x0C)) ∨
      (c.unusedBits = .mustBeZero ∧ op = 0x00 ∧ w.toNat % 2 ^ 8 ≠ 0) ∨
      (c.unusedBits = .mustBeZero ∧ (op = 0x08 ∨ op = 0x09) ∧ w.toNat % 2 ^ 27 ≠ 0) ∨
      (c.unusedBits = .mustBeZero ∧ c.pbLayout = .packed ∧ op = 0x0A ∧ w.toNat % 2 ^ 22 ≠ 0)) →
    ∃ why, decode c w = .error why) ∧
  ∀ (s : State) (why : Reserved), NoInterrupt s → backs s.cfg s.pc 4 = true → decode s.cfg (fetchWord s) = .error why →
    step s = .refused (.reservedEncoding why)

/-! Memory accesses -/

/-- R66 (D2, log 3): `MemRead` assembles the bytes of the access in the configuration's order. -/
def Obligations.MemReadAssemblesBytes : Prop :=
  ∀ (s : State) (a : Addr) (n : Nat), memRead s a n < 256 ^ n ∧
    ∀ j < n, memRead s a n / 256 ^ j % 256 = (s.mem.read (byteAddr s a n j)).toNat

/-- R66, R67 (D2, log 3): a read of what was just written at the same address gives the value written, and an access
that shares no byte with the write reads as before. -/
def Obligations.ReadAfterWrite : Prop :=
  ∀ (s : State) (a : Addr) (n v : Nat), s.mem.wf = true → n ≤ 8 →
    memRead (memWrite s a n v) a n = v % 256 ^ n ∧
    ∀ (b : Addr) (m : Nat), (∀ i < n, ∀ j < m, a + BitVec.ofNat 32 i ≠ b + BitVec.ofNat 32 j) →
      memRead (memWrite s a n v) b m = memRead s b m

/-- R131, R62 (D22, log 25), R69: the effective address is the low 32 bits of base plus signed offset, and an access goes
to it with its ignored low bits cleared. -/
def Obligations.EffectiveAddresses : Prop :=
  (∀ (s : State) (a : Reg) (imm : BitVec 13),
    ((effAddr s a imm).toNat : Int) = ((s.reg a).toNat + signed 13 imm.toNat) % 2 ^ 32) ∧
  ∀ (x : Addr) (k : Nat), (align x k).toNat = x.toNat - x.toNat % 2 ^ k

/-- R130: "C = IMM << 10 //Lower bits are reset"; with 64-bit registers the value is zero-extended (R242, the spec's
choice D21, log 23). -/
def Obligations.LoadUpperImmediate : Prop :=
  ∀ (s : State) (c : Reg) (imm : BitVec 22),
    (encode s.cfg (.lui c imm)).toNat = wordRI 0x02 c imm ∧ Gives (.lui c imm) s c (imm.toNat * 2 ^ 10)

/-- R132, R133, R134: the stores, their encodings, the bytes they write and what they leave. The order of the bytes is
R67, the spec's choice D2 (log 3), and that the stores do not depend on the operating width is R242, its choice D21
(log 23). -/
def Obligations.StoresWriteTheirBytes : Prop :=
  ∀ (s : State) (b a : Reg) (imm : BitVec 13), s.mem.wf = true →
    ((encode s.cfg (.stb b a imm)).toNat = wordRRI2 0x03 0x0 a b imm ∧
      ∀ addr, align (effAddr s a imm) 0 = addr → backs s.cfg addr 1 = true →
        StoreGives (.stb b a imm) s addr 1 (s.reg b).toNat) ∧
    ((encode s.cfg (.stw b a imm)).toNat = wordRRI2 0x03 0x1 a b imm ∧
      ∀ addr, align (effAddr s a imm) 1 = addr → backs s.cfg addr 2 = true →
        StoreGives (.stw b a imm) s addr 2 (s.reg b).toNat) ∧
    ((encode s.cfg (.std b a imm)).toNat = wordRRI2 0x03 0x2 a b imm ∧
      ∀ addr, align (effAddr s a imm) 2 = addr → backs s.cfg addr 4 = true →
        StoreGives (.std b a imm) s addr 4 (s.reg b).toNat)

/-- R135 (D7, log 8), R136, R137, R138: the loads, in every byte order and under either `LOAD_EXT`. -/
def Obligations.LoadsReadTheirBytes : Prop :=
  ∀ (s : State) (c a : Reg) (imm : BitVec 13),
    (∀ addr, align (effAddr s a imm) 0 = addr → backs s.cfg addr 1 = true → LoadGives (.ldb c a imm) s c addr 1) ∧
    (∀ addr, align (effAddr s a imm) 1 = addr → backs s.cfg addr 2 = true → LoadGives (.ldw c a imm) s c addr 2) ∧
    ∀ addr, align (effAddr s a imm) 2 = addr → backs s.cfg addr 4 = true → LoadGives (.ldd c a imm) s c addr 4

/-- R244, R245 (D21, logs 23 and 33): the quad-word store and load. -/
def Obligations.QuadWordAccesses : Prop :=
  ∀ (s : State) (r a : Reg) (imm : BitVec 13) (addr : Addr), s.mem.wf = true → s.cfg.hasQ64 = true →
    align (effAddr s a imm) s.cfg.quadIgnoredBits = addr → backs s.cfg addr 8 = true →
      StoreGives (.stq r a imm) s addr 8 (s.reg r).toNat ∧ LoadGives (.ldq r a imm) s r addr 8

/-- R64 (D19, log 20): a load, store, fetch or vector read outside the populated memory has no next state. -/
def Obligations.UnpopulatedAccessesFault : Prop :=
  (∀ (s : State) (r a : Reg) (imm : BitVec 13) (addr : Addr),
    (align (effAddr s a imm) 0 = addr → backs s.cfg addr 1 = false →
      exec (.ldb r a imm) s = .fault (.unpopulated addr) ∧ exec (.stb r a imm) s = .fault (.unpopulated addr)) ∧
    (align (effAddr s a imm) 1 = addr → backs s.cfg addr 2 = false →
      exec (.ldw r a imm) s = .fault (.unpopulated addr) ∧ exec (.stw r a imm) s = .fault (.unpopulated addr)) ∧
    (align (effAddr s a imm) 2 = addr → backs s.cfg addr 4 = false →
      exec (.ldd r a imm) s = .fault (.unpopulated addr) ∧ exec (.std r a imm) s = .fault (.unpopulated addr)) ∧
    (align (effAddr s a imm) s.cfg.quadIgnoredBits = addr → backs s.cfg addr 8 = false →
      exec (.ldq r a imm) s = .fault (.unpopulated addr) ∧ exec (.stq r a imm) s = .fault (.unpopulated addr))) ∧
  (∀ s : State, NoInterrupt s → backs s.cfg s.pc 4 = false → step s = .fault (.unpopulated s.pc)) ∧
  (∀ s : State, s.cfg.vectorMode = .pointer → backs s.cfg 0x00000000 4 = false →
    exec .syscal s = .fault (.unpopulated 0x00000000)) ∧
  ∀ s : State, s.sr.getLsbD 1 = true → s.irq.now = true → s.cfg.vectorMode = .pointer →
    backs s.cfg 0x00000004 4 = false → step s = .fault (.unpopulated 0x00000004)

/-- R75 (D17, log 18): a store over the next instruction is what the next fetch reads. -/
def Obligations.StoreIsVisibleToFetch : Prop :=
  ∀ (s t : State) (b a : Reg) (imm : BitVec 13), s.mem.wf = true → align (effAddr s a imm) 2 = s.pc + 4 →
    exec (.std b a imm) s = .next t → (fetchWord t).toNat = low s b

/-- R246, R247 (D21; logs 23 and 36): LUI.UU and LUI.LU replace 22 bits of the register and keep the others. -/
def Obligations.LoadUpperImmediateHighHalves : Prop :=
  ∀ (s : State) (c : Reg) (imm : BitVec 22), s.cfg.hasQ64 = true →
    Gives (.luiUU c imm) s c (imm.toNat * 2 ^ 42 + (s.reg c).toNat % 2 ^ 42) ∧
    Gives (.luiLU c imm) s c
      ((s.reg c).toNat / 2 ^ 54 * 2 ^ 54 + imm.toNat * 2 ^ 32 + (s.reg c).toNat % 2 ^ 32)

/-! Jumps -/

/-- R151, R154, R155: the unconditional jumps, their encodings and where they land. That JMP counts from its own address
is R150, the spec's choice D10 (log 11), and IRJ from a 64-bit register is R242, its choice D21 (log 23). -/
def Obligations.UnconditionalJumps : Prop :=
  (∀ (s : State) (a : Reg) (imm : BitVec 22),
    (encode s.cfg (.irj a imm)).toNat = wordRI2 0x05 a imm ∧
    exec (.irj a imm) s =
      .next { s with pc := landing s.cfg.jumpIgnoredBits (s.reg a).toNat (signed 22 imm.toNat) }) ∧
  ∀ (s : State) (imm : BitVec 27),
    (encode s.cfg (.jmp imm)).toNat = 0x06 * 2 ^ 27 + imm.toNat ∧
    exec (.jmp imm) s = .next { s with pc := landing s.cfg.jumpIgnoredBits s.pc.toNat (signed 27 imm.toNat) }

/-- R152: the four conditions of a subtraction at any width, and S against the true signed comparison. -/
def Obligations.SubtractionConditions : Prop :=
  ∀ (w : Nat) (a b : BitVec w), 0 < w →
    (subZero w a b = true ↔ a.toNat = b.toNat) ∧
    (subBorrow w a b = true ↔ a.toNat < b.toNat) ∧
    (subSign w a b = true ↔ signBit w a.toNat b.toNat) ∧
    (subOverflow w a b = true ↔ overflows w a.toNat b.toNat) ∧
    (subOverflow w a b = false → (subSign w a b = true ↔ a.toInt < b.toInt)) ∧
    (subOverflow w a b = true → (subSign w a b = true ↔ ¬ a.toInt < b.toInt))

/-- R156 to R163 in the base architecture: encodings, conditions, targets. That the target counts from the jump's own
address is R150, the spec's choice D10 (log 11). JSLT agrees with the signed comparison where V = 0 and gives the
opposite answer where V = 1, and JSGE likewise (R158, R162). -/
def Obligations.ConditionalJumpsInBase : Prop :=
  ∀ (s : State) (a b : Reg) (imm : BitVec 13), s.cfg.hasQ64 = false →
    let x := low s a
    let y := low s b
    ((encode s.cfg (.jeq a b imm)).toNat = wordRRI2 0x07 0x0 a b imm ∧ JumpsIf (.jeq a b imm) s imm (x = y)) ∧
    ((encode s.cfg (.jlt a b imm)).toNat = wordRRI2 0x07 0x1 a b imm ∧ JumpsIf (.jlt a b imm) s imm (x < y)) ∧
    ((encode s.cfg (.jslt a b imm)).toNat = wordRRI2 0x07 0x2 a b imm ∧
      JumpsIf (.jslt a b imm) s imm (signBit 32 x y) ∧
      (¬ overflows 32 x y → JumpsIf (.jslt a b imm) s imm (signed 32 x < signed 32 y)) ∧
      (overflows 32 x y → JumpsIf (.jslt a b imm) s imm (¬ signed 32 x < signed 32 y))) ∧
    ((encode s.cfg (.jsv a b imm)).toNat = wordRRI2 0x07 0x3 a b imm ∧
      JumpsIf (.jsv a b imm) s imm (overflows 32 x y)) ∧
    ((encode s.cfg (.jne a b imm)).toNat = wordRRI2 0x07 0x4 a b imm ∧ JumpsIf (.jne a b imm) s imm (x ≠ y)) ∧
    ((encode s.cfg (.jge a b imm)).toNat = wordRRI2 0x07 0x5 a b imm ∧ JumpsIf (.jge a b imm) s imm (y ≤ x)) ∧
    ((encode s.cfg (.jsge a b imm)).toNat = wordRRI2 0x07 0x6 a b imm ∧
      JumpsIf (.jsge a b imm) s imm (¬ signBit 32 x y) ∧
      (¬ overflows 32 x y → JumpsIf (.jsge a b imm) s imm (signed 32 y ≤ signed 32 x)) ∧
      (overflows 32 x y → JumpsIf (.jsge a b imm) s imm (¬ signed 32 y ≤ signed 32 x))) ∧
    ((encode s.cfg (.jnsv a b imm)).toNat = wordRRI2 0x07 0x7 a b imm ∧
      JumpsIf (.jnsv a b imm) s imm (¬ overflows 32 x y))

/-- R242 (D21, log 23): with the 64-bit extension a conditional jump compares at the operating width. -/
def Obligations.ConditionalJumpsFollowOperatingWidth : Prop :=
  ∀ (s : State) (a b : Reg) (imm : BitVec 13), s.cfg.hasQ64 = true →
    let w := if s.sr.getLsbD 3 then 64 else 32
    let x := (s.reg a).toNat % 2 ^ w
    let y := (s.reg b).toNat % 2 ^ w
    JumpsIf (.jeq a b imm) s imm (x = y) ∧ JumpsIf (.jlt a b imm) s imm (x < y) ∧
    JumpsIf (.jslt a b imm) s imm (signBit w x y) ∧ JumpsIf (.jsv a b imm) s imm (overflows w x y) ∧
    JumpsIf (.jne a b imm) s imm (x ≠ y) ∧ JumpsIf (.jge a b imm) s imm (y ≤ x) ∧
    JumpsIf (.jsge a b imm) s imm (¬ signBit w x y) ∧ JumpsIf (.jnsv a b imm) s imm (¬ overflows w x y)

/-- R308, with `JUMP_IGNORED_BITS` = 3: an instruction at an address that is 4 modulo 8 is reached only by falling
through, by URT or by a trap. -/
def Obligations.NoJumpReachesFourModuloEight : Prop :=
  ∀ s t : State, s.cfg.jumpIgnoredBits = 3 → step s = .next t → t.pc.toNat % 8 ≠ 0 →
    s.takesInterrupt = true ∨ Fetches s .syscal ∨ Fetches s .urt ∨ t.pc = s.pc + 4

/-! The ALU -/

/-- R170, R172 to R176, R181, R182 in the base architecture: encodings and results. That field B of the encodings is bits
[12:8] is R97, the spec's choice D4 (log 5). -/
def Obligations.RegisterArithmeticInBase : Prop :=
  ∀ (s : State) (c a b : Reg), s.cfg.hasQ64 = false →
    let x := low s a
    let y := low s b
    ((encode s.cfg (.add c a b)).toNat = wordRRR 0x00 0x0 c a b ∧ Gives (.add c a b) s c ((x + y) % 2 ^ 32)) ∧
    ((encode s.cfg (.sub c a b)).toNat = wordRRR 0x00 0x1 c a b ∧ Gives (.sub c a b) s c ((x + 2 ^ 32 - y) % 2 ^ 32)) ∧
    ((encode s.cfg (.and c a b)).toNat = wordRRR 0x00 0x2 c a b ∧ Gives (.and c a b) s c (x &&& y)) ∧
    ((encode s.cfg (.or c a b)).toNat = wordRRR 0x00 0x3 c a b ∧ Gives (.or c a b) s c (x ||| y)) ∧
    ((encode s.cfg (.xor c a b)).toNat = wordRRR 0x00 0x4 c a b ∧ Gives (.xor c a b) s c (x ^^^ y)) ∧
    ((encode s.cfg (.cch c a b)).toNat = wordRRR 0x00 0x9 c a b ∧
      Gives (.cch c a b) s c (if 2 ^ 32 ≤ x + y then 1 else 0)) ∧
    ((encode s.cfg (.bch c a b)).toNat = wordRRR 0x00 0xA c a b ∧ Gives (.bch c a b) s c (if x < y then 1 else 0))

/-- R242, R243 (D21, logs 23 and 24): the same instructions with the 64-bit extension, at either operating width. -/
def Obligations.RegisterArithmeticFollowsOperatingWidth : Prop :=
  ∀ (s : State) (c a b : Reg), s.cfg.hasQ64 = true →
    let w := if s.sr.getLsbD 3 then 64 else 32
    let x := (s.reg a).toNat % 2 ^ w
    let y := (s.reg b).toNat % 2 ^ w
    AluGives (.add c a b) s c ((x + y) % 2 ^ w) ∧
    AluGives (.sub c a b) s c ((x + 2 ^ w - y) % 2 ^ w) ∧
    AluGives (.and c a b) s c (x &&& y) ∧
    AluGives (.or c a b) s c (x ||| y) ∧
    AluGives (.xor c a b) s c (x ^^^ y) ∧
    AluGives (.cch c a b) s c (if 2 ^ w ≤ x + y then 1 else 0) ∧
    AluGives (.bch c a b) s c (if x < y then 1 else 0)

/-- R171 (D8, log 9), R177 to R180 (D9, log 10), R242: the shifts by a register, in every configuration: division by 2^n
rounding down, and multiplication by 2^n modulo 2^W. -/
def Obligations.RegisterShifts : Prop :=
  ∀ (s : State) (c a b : Reg), let n := count s (uval s b)
    AluGives (.shr c a b) s c (uval s a / 2 ^ n) ∧
    AluGives (.asr c a b) s c ((sval s a / 2 ^ n) % 2 ^ width s).toNat ∧
    AluGives (.shl c a b) s c (uval s a * 2 ^ n % 2 ^ width s) ∧
    AluGives (.asl c a b) s c (uval s a * 2 ^ n % 2 ^ width s)

/-- R190 (D6, log 7), R191 to R195, R200, R201, R242: the immediate forms, in every configuration. -/
def Obligations.ImmediateArithmetic : Prop :=
  ∀ (s : State) (c a : Reg) (imm : BitVec 13), let x := uval s a; let y := uimm s imm; let w := width s
    AluGives (.addi c a imm) s c ((x + y) % 2 ^ w) ∧
    AluGives (.subi c a imm) s c ((x + 2 ^ w - y) % 2 ^ w) ∧
    AluGives (.andi c a imm) s c (x &&& y) ∧
    AluGives (.ori c a imm) s c (x ||| y) ∧
    AluGives (.xori c a imm) s c (x ^^^ y) ∧
    AluGives (.cchi c a imm) s c (if 2 ^ w ≤ x + y then 1 else 0) ∧
    AluGives (.bchi c a imm) s c (if x < y then 1 else 0)

/-- R196 to R199 (D6, D8, D9; logs 7, 9, 10), R242: the shifts by an immediate, in every configuration. -/
def Obligations.ImmediateShifts : Prop :=
  ∀ (s : State) (c a : Reg) (imm : BitVec 13), let n := count s (uimm s imm)
    AluGives (.shri c a imm) s c (uval s a / 2 ^ n) ∧
    AluGives (.asri c a imm) s c ((sval s a / 2 ^ n) % 2 ^ width s).toNat ∧
    AluGives (.shli c a imm) s c (uval s a * 2 ^ n % 2 ^ width s) ∧
    AluGives (.asli c a imm) s c (uval s a * 2 ^ n % 2 ^ width s)

/-- R261 (a), R262, R265, R242: the low W bits of the signed product, which are those of the unsigned product too. -/
def Obligations.Multiplication : Prop :=
  ∀ (s : State) (c a b : Reg) (imm : BitVec 13), let w := width s
    AluGives (.mul c a b) s c (uval s a * uval s b % 2 ^ w) ∧
    AluGives (.mul c a b) s c ((sval s a * sval s b) % 2 ^ w).toNat ∧
    AluGives (.muli c a imm) s c (uval s a * uimm s imm % 2 ^ w)

/-- R261 (b), (c), (d) (D20, log 22), R263, R264, R266, R267, R242: the signed quotient truncated toward zero and its
remainder, for a divisor that is not zero. -/
def Obligations.DivisionAndModulo : Prop :=
  ∀ (s : State) (c a b : Reg) (imm : BitVec 13), let w := width s
    (uval s b ≠ 0 →
      AluGives (.div c a b) s c ((sval s a).tdiv (sval s b) % 2 ^ w).toNat ∧
      AluGives (.mod c a b) s c ((sval s a).tmod (sval s b) % 2 ^ w).toNat) ∧
    (uimm s imm ≠ 0 →
      AluGives (.divi c a imm) s c ((sval s a).tdiv (signed w (uimm s imm)) % 2 ^ w).toNat ∧
      AluGives (.modi c a imm) s c ((sval s a).tmod (signed w (uimm s imm)) % 2 ^ w).toNat)

/-- R261 (e) (D20, log 21): with divisor 0 the instruction completes with `DIV_ZERO`, whatever that function is. -/
def Obligations.DivisionByZeroCompletes : Prop :=
  ∀ (s : State) (c a b : Reg) (imm : BitVec 13),
    let z := fun op => if s.wide then (Config.divZero 64 op (s.reg a)).toNat
      else (Config.divZero 32 op ((s.reg a).setWidth 32)).toNat
    (uval s b = 0 → AluGives (.div c a b) s c (z .div) ∧ AluGives (.mod c a b) s c (z .mod)) ∧
    (uimm s imm = 0 → AluGives (.divi c a imm) s c (z .div) ∧ AluGives (.modi c a imm) s c (z .mod))

/-- R261 (b), (c) (D20, log 22): quotient times divisor plus remainder is the dividend modulo 2^W, in the overflow case
too, and the remainder is smaller in magnitude than the divisor and has the dividend's sign or is zero. -/
def Obligations.QuotientAndRemainderRebuildDividend : Prop :=
  ∀ (w : Nat) (a b : BitVec w), 0 < w → b ≠ 0 →
    aluDiv w a b * b + aluMod w a b = a ∧
    (aluMod w a b).toInt.natAbs < b.toInt.natAbs ∧
    ((aluMod w a b).toInt = 0 ∨ ((aluMod w a b).toInt < 0 ↔ a.toInt < 0))

/-! The system instructions, traps and modes -/

/-- R212, R214: SSB and CSB, with their encodings in the default layout (R102, R211, the spec's choice D4, log 5); that
they do nothing in user mode or for another number is R213, its choice D13 (log 14). In kernel mode they write status bit 1, 2 or 3;
in every other case only the pc changes. -/
def Obligations.SetAndClearStatusBit : Prop :=
  ∀ (s : State) (n : BitVec 5),
    (s.cfg.pbLayout = .packed → n.toNat < 16 →
      (encode s.cfg (.ssb n)).toNat = 0x0A * 2 ^ 27 + n.toNat * 2 ^ 23 ∧
      (encode s.cfg (.csb n)).toNat = 0x0A * 2 ^ 27 + n.toNat * 2 ^ 23 + 2 ^ 22) ∧
    ∀ (b : Bool), ∃ t, exec (if b then .ssb n else .csb n) s = .next t ∧ t = { s with pc := s.pc + 4, sr := t.sr } ∧
      ∀ m, t.sr.getLsbD m =
        if s.sr.getLsbD 0 ∧ m = n.toNat ∧ (n.toNat = 1 ∨ n.toNat = 2 ∨ n.toNat = 3) then b else s.sr.getLsbD m

/-- R210, R274, R275, R278 (D3, D14; logs 4 and 15): a system call enters the handler in kernel mode with IR at the next
instruction, from either mode, and changes nothing else. -/
def Obligations.SystemCallEntersHandler : Prop :=
  ∀ (s : State) (target : Addr), TrapTarget s .software target →
    ∃ t, exec .syscal s = .next t ∧ t = { s with ir := s.pc + 4, sr := t.sr, pc := target } ∧
      ∀ m, t.sr.getLsbD m = if m = 0 then true else s.sr.getLsbD m

/-- R277 (D14, D18; logs 15 and 19): with SR.I set and the request true, the step is trap entry through the hardware
vector with IR at the instruction not executed, in either mode, and nothing else changes. -/
def Obligations.InterruptEntersHandler : Prop :=
  ∀ (s : State) (target : Addr), s.sr.getLsbD 1 = true → s.irq.now = true → TrapTarget s .hardware target →
    ∃ t, step s = .next t ∧ t = { s with ir := s.pc, sr := t.sr, pc := target, irq := s.irq.later } ∧
      ∀ m, t.sr.getLsbD m = if m = 0 then true else s.sr.getLsbD m

/-- R276 (D25, log 27): a vector whose value is not a multiple of 4 has no meaning, for either trap. -/
def Obligations.MisalignedVectorRefused : Prop :=
  ∀ s : State, s.cfg.vectorMode = .pointer →
    (backs s.cfg 0x00000000 4 = true → memRead s 0x00000000 4 % 4 ≠ 0 →
      exec .syscal s = .refused (.reservedVector (BitVec.ofNat 32 (memRead s 0x00000000 4)))) ∧
    (s.sr.getLsbD 1 = true → s.irq.now = true → backs s.cfg 0x00000004 4 = true →
      memRead s 0x00000004 4 % 4 ≠ 0 →
      step s = .refused (.reservedVector (BitVec.ofNat 32 (memRead s 0x00000004 4))))

/-- R281: "`SR.K <- 0; pc <- IR`", and nothing else is restored or changed. That URT takes all bits of IR and works in
either mode is R215, the spec's choice D16 (log 17). -/
def Obligations.UserModeReturn : Prop :=
  ∀ s : State, ∃ t, exec .urt s = .next t ∧ t = { s with pc := s.ir, sr := t.sr } ∧
    ∀ m, t.sr.getLsbD m = if m = 0 then false else s.sr.getLsbD m

/-- R13 (D17, log 18): where no interrupt is taken and the word at the pc decodes to `i`, the step is `exec i`, with the
interrupt input moved on to the next boundary and nothing else around it. -/
def Obligations.StepRunsFetchedInstruction : Prop :=
  ∀ (s : State) (i : Instr), NoInterrupt s → Fetches s i → step s = exec i { s with irq := s.irq.later }

/-- R30: K is set by a system call and by interrupt entry, cleared by URT, and written by nothing else; and its only
effect is on SSB and CSB (a program can also read it through r31, R285). -/
def Obligations.KernelBitEventsAndEffect : Prop :=
  (∀ s t : State, step s = .next t →
    (s.takesInterrupt = true ∧ t.sr.getLsbD 0 = true) ∨
    (s.takesInterrupt = false ∧ ∃ i, Fetches s i ∧
      t.sr.getLsbD 0 = if i = .syscal then true else if i = .urt then false else s.sr.getLsbD 0)) ∧
  ∀ (i : Instr) (s t : State), IgnoresSr i → AgreeBut 0 s t → OutcomesAgreeBut 0 (exec i s) (exec i t)

/-- R31 (D12, log 13) and R32: bit P has no effect, bit Q has none without the 64-bit extension, and bit I has none on
the execution of an instruction: runs from states that differ in the bit alone go on differing in it alone. -/
def Obligations.StatusBitsWithoutEffect : Prop :=
  ∀ (n : Nat) (i : Instr) (s t : State), n = 1 ∨ n = 2 ∨ (n = 3 ∧ s.cfg.hasQ64 = false) → IgnoresSr i →
    AgreeBut n s t → OutcomesAgreeBut n (exec i s) (exec i t)

/-- R34: bits I, P and Q change only through SSB and CSB in kernel mode; in user mode these leave SR as it is; SR is no
destination register. -/
def Obligations.OnlyKernelChangesStatusBits : Prop :=
  (∀ (s t : State) (n : Nat), step s = .next t → 1 ≤ n → t.sr.getLsbD n ≠ s.sr.getLsbD n →
    s.takesInterrupt = false ∧ s.sr.getLsbD 0 = true ∧
    ∃ m : BitVec 5, m.toNat = n ∧ (Fetches s (.ssb m) ∨ Fetches s (.csb m))) ∧
  (∀ (s t : State) (n : BitVec 5), s.sr.getLsbD 0 = false → (exec (.ssb n) s = .next t ∨ exec (.csb n) s = .next t) →
    t.sr = s.sr) ∧
  ∀ (s : State) (v : RegVal), s.setReg .sr v = s

/-! The machine as a whole -/

/-- R37: every instruction that is not a jump, SYSCAL or URT advances the pc by 4 where it completes. -/
def Obligations.SequentialInstructionsAdvance : Prop :=
  ∀ (i : Instr) (s t : State), leavesSequence i = false → exec i s = .next t → t.pc = s.pc + 4

/-- R61: memory changes only in a step that takes no interrupt and executes a store; trap entry only reads it (R274). -/
def Obligations.OnlyStoresWriteMemory : Prop :=
  ∀ s t : State, step s = .next t → t.mem ≠ s.mem →
    s.takesInterrupt = false ∧ ∃ i, isStore i = true ∧ Fetches s i

/-- R271, R111, R276, R64 (logs 20, 26, 27): a step stops only at a reserved encoding, at a vector that is not a multiple
of 4, or at an access outside the populated memory; never where all of memory is populated and neither of the two
occurs. -/
def Obligations.StopsOnlyForStatedReasons : Prop :=
  ∀ s : State,
    (∀ f, step s = .fault f → ∃ a, f = .unpopulated a ∧ ∃ j < 8, backed s.cfg (a + BitVec.ofNat 32 j) = false) ∧
    ∀ r, step s = .refused r →
      (∃ why, r = .reservedEncoding why ∧ s.takesInterrupt = false ∧ decode s.cfg (fetchWord s) = .error why) ∨
      (∃ v, r = .reservedVector v ∧ v.toNat % 4 ≠ 0 ∧ s.cfg.vectorMode = .pointer ∧
        (s.takesInterrupt = true ∨ Fetches s .syscal))

/-- R303: the kernel's first entry into user mode: a SYSCAL whose vector leads to a URT continues after the SYSCAL, in user
mode, with everything else but IR unchanged. -/
def Obligations.FirstEntryIntoUserMode : Prop :=
  ∀ (s : State) (target : Addr), NoInterrupt s → NoInterrupt { s with irq := s.irq.later } → Fetches s .syscal →
    TrapTarget s .software target → Fetches { s with pc := target } .urt →
    ∃ t u, step s = .next t ∧ step t = .next u ∧
      u = { s with pc := s.pc + 4, ir := s.pc + 4, sr := u.sr, irq := s.irq.later.later } ∧
      ∀ m, u.sr.getLsbD m = if m = 0 then false else s.sr.getLsbD m

/-- R277, R281, R282: an interrupt whose handler is one URT resumes at the instruction not executed, with every register
and all of memory as before, and always in user mode. -/
def Obligations.InterruptThenReturnResumes : Prop :=
  ∀ s t : State, s.takesInterrupt = true → step s = .next t →
    ∃ u, exec .urt t = .next u ∧ u = { s with ir := s.pc, sr := u.sr, irq := s.irq.later } ∧
      ∀ m, u.sr.getLsbD m = if m = 0 then false else s.sr.getLsbD m

/-- R283, R272 (log 19): as long as the request stays true with SR.I set, every step is trap entry and the handler
executes no instruction: after the first, IR is the handler's address, and registers and memory never change. Only under
the explicit assumption that the request is withdrawn at the boundary after entry (the statement's last premise) does
the handler's first instruction run. -/
def Obligations.HeldRequestReentersHandler : Prop :=
  ∀ (s : State) (target : Addr), s.sr.getLsbD 1 = true → TrapTarget s .hardware target →
    (∀ n, (∀ k ≤ n, s.irq.after k = true) →
      ∃ t, steps (n + 1) s = .next t ∧
        t = { s with ir := if n = 0 then s.pc else target, sr := t.sr, pc := target, irq := t.irq } ∧
        (∀ k, t.irq.after k = s.irq.after (n + 1 + k)) ∧
        ∀ m, t.sr.getLsbD m = if m = 0 then true else s.sr.getLsbD m) ∧
    ∀ i, Fetches { s with pc := target } i → s.irq.after 0 = true → s.irq.after 1 = false →
      ∃ t, step s = .next t ∧ t.pc = target ∧ t.ir = s.pc ∧ step t = exec i { t with irq := t.irq.later }

/-- R292 (D30, log 39): once a run has ended, every step leaves the whole state unchanged (but the interrupt input, which
moves on). -/
def Obligations.EndedRunStaysEnded : Prop :=
  ∀ s : State, s.cfg.wf = true → backs s.cfg s.pc 4 = true → s.ended →
    step s = .next { s with irq := s.irq.later } ∧ State.ended { s with irq := s.irq.later }

/-! Pseudo-instructions and idioms -/

/-- R221: LDI gives its register the 32-bit constant, under either `ALU_IMM_EXT`. -/
def Obligations.LoadImmediateExpansion : Prop :=
  ∀ (s : State) (c : Reg) (imm : BitVec 32), s.cfg.hasQ64 = false →
    ∃ t, execAll (Pseudo.ldi c imm).expand s = .next t ∧ t.pc = s.pc + 8 ∧ SameBut s t c ∧
      ∀ k, c = .gpr k → (t.reg c).toNat = imm.toNat

/-- R225: JAL puts the address after its JMP into RP and jumps. That the JMP counts from its own address is R150, the
spec's choice D10 (log 11). -/
def Obligations.JumpAndLinkExpansion : Prop :=
  ∀ (s : State) (imm : BitVec 27), s.cfg.hasQ64 = false →
    ∃ t, execAll (Pseudo.jal imm).expand s = .next t ∧ SameBut s t .rp ∧
      (t.reg .rp).toNat = (s.pc + 8).toNat ∧
      t.pc = landing s.cfg.jumpIgnoredBits (s.pc + 4).toNat (signed 27 imm.toNat)

/-- R222, R223, R226, R227, R228: INC, DEC, RET, NOP and CLR. -/
def Obligations.ShortExpansions : Prop :=
  ∀ (s : State) (k : Fin 28), s.cfg.hasQ64 = false → let x := low s (.gpr k)
    (∃ t, execAll (Pseudo.inc (.gpr k)).expand s = .next t ∧ t.pc = s.pc + 4 ∧ SameBut s t (.gpr k) ∧
      (t.reg (.gpr k)).toNat = (x + 1) % 2 ^ 32) ∧
    (∃ t, execAll (Pseudo.dec (.gpr k)).expand s = .next t ∧ t.pc = s.pc + 4 ∧ SameBut s t (.gpr k) ∧
      (t.reg (.gpr k)).toNat = (x + 2 ^ 32 - 1) % 2 ^ 32) ∧
    (∃ t, execAll (Pseudo.clr (.gpr k)).expand s = .next t ∧ t.pc = s.pc + 4 ∧ SameBut s t (.gpr k) ∧
      (t.reg (.gpr k)).toNat = 0) ∧
    execAll Pseudo.nop.expand s = .next { s with pc := s.pc + 4 } ∧
    execAll Pseudo.ret.expand s = .next { s with pc := landing s.cfg.jumpIgnoredBits (s.reg .rp).toNat 0 }

/-- R230, R231: PSH stores a register below the stack pointer, and POP, run right after it, loads it back and restores the
stack pointer. -/
def Obligations.PushThenPop : Prop :=
  ∀ (s : State) (b c : Reg), s.cfg.hasQ64 = false → s.mem.wf = true → b ≠ .sp → c ≠ .sp → b ≠ .ip →
    let slot : Addr := align (BitVec.ofNat 32 (low s .sp + 2 ^ 32 - 4)) 2
    backs s.cfg slot 4 = true →
    ∃ t u, execAll (Pseudo.psh b).expand s = .next t ∧ (t.reg .sp).toNat = (low s .sp + 2 ^ 32 - 4) % 2 ^ 32 ∧
      memRead t slot 4 = low s b ∧ (∀ x, (∀ j < 4, x ≠ (slot + BitVec.ofNat 32 j).toNat) → t.mem.read x = s.mem.read x) ∧
      execAll (Pseudo.pop c).expand t = .next u ∧ (u.reg .sp).toNat = low s .sp ∧
      (∀ k, c = .gpr k → (u.reg c).toNat = low s b) ∧
      (∀ k, Reg.sp ≠ .gpr k → c ≠ .gpr k → u.reg (.gpr k) = s.reg (.gpr k)) ∧
      u.pc = s.pc + 16 ∧ u.mem = t.mem ∧ u.sr = s.sr ∧ u.ir = s.ir

/-- R309, with `JUMP_IGNORED_BITS` = 3: the return of a call that stands at a multiple of 8 goes to the instruction after
it; that of a call at 4 modulo 8 goes back to the call's own JMP. -/
def Obligations.CallReturnAddress : Prop :=
  ∀ (s t u : State) (imm : BitVec 27), s.cfg.hasQ64 = false → s.cfg.jumpIgnoredBits = 3 →
    execAll (Pseudo.jal imm).expand s = .next t → execAll Pseudo.ret.expand t = .next u →
    (s.pc.toNat % 8 = 0 → u.pc = s.pc + 8) ∧ (s.pc.toNat % 8 = 4 → u.pc = s.pc + 4)

/-- R247 (D21, log 36): LUI, ADDI, LUI.LU and LUI.UU in this order build any 64-bit constant, with Q = 0 or Q = 1 and
whatever `Q0_UPPER` is. -/
def Obligations.SixtyFourBitConstant : Prop :=
  ∀ (s : State) (k : Fin 28) (v : RegVal), s.cfg.hasQ64 = true →
    ∃ t, execAll [.lui (.gpr k) (v.extractLsb' 10 22), .addi (.gpr k) (.gpr k) ((v.extractLsb' 0 10).setWidth 13),
        .luiLU (.gpr k) (v.extractLsb' 32 22), .luiUU (.gpr k) (v.extractLsb' 42 22)] s = .next t ∧
      t.reg (.gpr k) = v ∧ t.pc = s.pc + 16 ∧ SameBut s t (.gpr k)

/-- R181: with ADD and CCH a program adds 64-bit numbers held in pairs of registers (low half first), as program P6 of
`95_test_vectors.md` does. -/
def Obligations.MultiWordAddition : Prop :=
  ∀ s : State, s.cfg.hasQ64 = false →
    ∃ t, execAll [.add .a4 .a0 .a2, .cch .t0 .a0 .a2, .add .a5 .a1 .a3, .add .a5 .a5 .t0] s = .next t ∧
      (t.reg .a5).toNat * 2 ^ 32 + (t.reg .a4).toNat =
        (low s .a1 * 2 ^ 32 + low s .a0 + (low s .a3 * 2 ^ 32 + low s .a2)) % 2 ^ 64
end

