-- ==== Sys2Proof/Laws/Encoding.lean ====
section
/-! SUPPORT. What each field reads from a word that the encoder builds, format by format (R91 to R103). -/

namespace Sys2Proof

/-- An appended vector as a number. -/
theorem toNat_append_eq {v w : Nat} (x : BitVec v) (y : BitVec w) : (x ++ y).toNat = x.toNat * 2 ^ w + y.toNat := by
  rw [BitVec.toNat_append, Nat.shiftLeft_eq, Nat.mul_comm, ← Nat.two_pow_add_eq_or_of_lt y.isLt]

/-- A register's field selects it. -/
@[simp] theorem regOfField_field (r : Reg) : regOfField r.field = r := by
  cases r with
  | gpr k => revert k; decide
  | zr | ir | ip | sr => rfl

/-- The register a field selects has that field. -/
@[simp] theorem field_regOfField (f : BitVec 5) : (regOfField f).field = f := by revert f; decide

/-! Format RRR (R97) -/

@[simp] theorem opcodeOf_encRRR (op : BitVec 5) (fn : BitVec 4) (c a b : Reg) : opcodeOf (encRRR op fn c a b) = op := by
  have := op.isLt; have := fn.isLt; have := c.field.isLt; have := a.field.isLt; have := b.field.isLt
  apply BitVec.eq_of_toNat_eq
  simp only [opcodeOf, encRRR, BitVec.extractLsb'_toNat, toNat_append_eq, Nat.shiftRight_eq_div_pow, Nat.reducePow,
    BitVec.ofNat_eq_ofNat, BitVec.toNat_ofNat]
  omega
@[simp] theorem fn1Of_encRRR (op : BitVec 5) (fn : BitVec 4) (c a b : Reg) : fn1Of (encRRR op fn c a b) = fn := by
  have := fn.isLt; have := b.field.isLt
  apply BitVec.eq_of_toNat_eq
  simp only [fn1Of, encRRR, BitVec.extractLsb'_toNat, toNat_append_eq, Nat.shiftRight_eq_div_pow, Nat.reducePow,
    BitVec.ofNat_eq_ofNat, BitVec.toNat_ofNat]
  omega
@[simp] theorem fieldC_encRRR (op : BitVec 5) (fn : BitVec 4) (c a b : Reg) : fieldC (encRRR op fn c a b) = c := by
  have := fn.isLt; have := c.field.isLt; have := a.field.isLt; have := b.field.isLt
  have h : (encRRR op fn c a b).extractLsb' 22 5 = c.field := by
    apply BitVec.eq_of_toNat_eq
    simp only [encRRR, BitVec.extractLsb'_toNat, toNat_append_eq, Nat.shiftRight_eq_div_pow, Nat.reducePow,
      BitVec.ofNat_eq_ofNat, BitVec.toNat_ofNat]
    omega
  rw [fieldC, h, regOfField_field]
@[simp] theorem fieldA_encRRR (op : BitVec 5) (fn : BitVec 4) (c a b : Reg) : fieldA (encRRR op fn c a b) = a := by
  have := fn.isLt; have := a.field.isLt; have := b.field.isLt
  have h : (encRRR op fn c a b).extractLsb' 17 5 = a.field := by
    apply BitVec.eq_of_toNat_eq
    simp only [encRRR, BitVec.extractLsb'_toNat, toNat_append_eq, Nat.shiftRight_eq_div_pow, Nat.reducePow,
      BitVec.ofNat_eq_ofNat, BitVec.toNat_ofNat]
    omega
  rw [fieldA, h, regOfField_field]
@[simp] theorem fieldB_encRRR (op : BitVec 5) (fn : BitVec 4) (c a b : Reg) : fieldB (encRRR op fn c a b) = b := by
  have := b.field.isLt
  have h : (encRRR op fn c a b).extractLsb' 8 5 = b.field := by
    apply BitVec.eq_of_toNat_eq
    simp only [encRRR, BitVec.extractLsb'_toNat, toNat_append_eq, Nat.shiftRight_eq_div_pow, Nat.reducePow,
      BitVec.ofNat_eq_ofNat, BitVec.toNat_ofNat]
    omega
  rw [fieldB, h, regOfField_field]

/-! Format RRI (R98) -/

@[simp] theorem opcodeOf_encRRI (op : BitVec 5) (fn : BitVec 4) (c a : Reg) (imm : BitVec 13) :
    opcodeOf (encRRI op fn c a imm) = op := by
  have := op.isLt; have := fn.isLt; have := c.field.isLt; have := a.field.isLt; have := imm.isLt
  apply BitVec.eq_of_toNat_eq
  simp only [opcodeOf, encRRI, BitVec.extractLsb'_toNat, toNat_append_eq, Nat.shiftRight_eq_div_pow, Nat.reducePow]
  omega
@[simp] theorem fn1Of_encRRI (op : BitVec 5) (fn : BitVec 4) (c a : Reg) (imm : BitVec 13) :
    fn1Of (encRRI op fn c a imm) = fn := by
  have := fn.isLt; have := imm.isLt
  apply BitVec.eq_of_toNat_eq
  simp only [fn1Of, encRRI, BitVec.extractLsb'_toNat, toNat_append_eq, Nat.shiftRight_eq_div_pow, Nat.reducePow]
  omega
@[simp] theorem fieldC_encRRI (op : BitVec 5) (fn : BitVec 4) (c a : Reg) (imm : BitVec 13) :
    fieldC (encRRI op fn c a imm) = c := by
  have := fn.isLt; have := c.field.isLt; have := a.field.isLt; have := imm.isLt
  have h : (encRRI op fn c a imm).extractLsb' 22 5 = c.field := by
    apply BitVec.eq_of_toNat_eq
    simp only [encRRI, BitVec.extractLsb'_toNat, toNat_append_eq, Nat.shiftRight_eq_div_pow, Nat.reducePow]
    omega
  rw [fieldC, h, regOfField_field]
@[simp] theorem fieldA_encRRI (op : BitVec 5) (fn : BitVec 4) (c a : Reg) (imm : BitVec 13) :
    fieldA (encRRI op fn c a imm) = a := by
  have := fn.isLt; have := a.field.isLt; have := imm.isLt
  have h : (encRRI op fn c a imm).extractLsb' 17 5 = a.field := by
    apply BitVec.eq_of_toNat_eq
    simp only [encRRI, BitVec.extractLsb'_toNat, toNat_append_eq, Nat.shiftRight_eq_div_pow, Nat.reducePow]
    omega
  rw [fieldA, h, regOfField_field]
@[simp] theorem immRRI_encRRI (op : BitVec 5) (fn : BitVec 4) (c a : Reg) (imm : BitVec 13) :
    immRRI (encRRI op fn c a imm) = imm := by
  have := imm.isLt
  apply BitVec.eq_of_toNat_eq
  simp only [immRRI, encRRI, BitVec.extractLsb'_toNat, toNat_append_eq, Nat.shiftRight_eq_div_pow, Nat.reducePow]
  omega

/-! Format RRI2 (R99) -/

@[simp] theorem opcodeOf_encRRI2 (op : BitVec 5) (fn : BitVec 4) (a b : Reg) (imm : BitVec 13) :
    opcodeOf (encRRI2 op fn a b imm) = op := by
  have := op.isLt; have := fn.isLt; have := a.field.isLt; have := b.field.isLt; have := imm.isLt
  apply BitVec.eq_of_toNat_eq
  simp only [opcodeOf, encRRI2, BitVec.extractLsb'_toNat, toNat_append_eq, Nat.shiftRight_eq_div_pow, Nat.reducePow]
  have h1 : imm.toNat / 256 % 32 < 32 := Nat.mod_lt _ (by omega)
  have h2 : imm.toNat / 1 % 256 < 256 := Nat.mod_lt _ (by omega)
  have h3 : imm.toNat = imm.toNat / 256 % 32 * 256 + imm.toNat / 1 % 256 := by omega
  generalize imm.toNat / 256 % 32 = p at *
  generalize imm.toNat / 1 % 256 = q at *
  rw [Nat.div_eq_of_lt_le (k := op.toNat) (by omega) (by omega)]
  omega
@[simp] theorem fn1Of_encRRI2 (op : BitVec 5) (fn : BitVec 4) (a b : Reg) (imm : BitVec 13) :
    fn1Of (encRRI2 op fn a b imm) = fn := by
  have := fn.isLt; have := b.field.isLt
  apply BitVec.eq_of_toNat_eq
  simp only [fn1Of, encRRI2, BitVec.extractLsb'_toNat, toNat_append_eq, Nat.shiftRight_eq_div_pow, Nat.reducePow]
  have h1 : imm.toNat / 256 % 32 < 32 := Nat.mod_lt _ (by omega)
  have h2 : imm.toNat / 1 % 256 < 256 := Nat.mod_lt _ (by omega)
  have h3 : imm.toNat = imm.toNat / 256 % 32 * 256 + imm.toNat / 1 % 256 := by omega
  generalize imm.toNat / 256 % 32 = p at *
  generalize imm.toNat / 1 % 256 = q at *
  omega
@[simp] theorem fieldA_encRRI2 (op : BitVec 5) (fn : BitVec 4) (a b : Reg) (imm : BitVec 13) :
    fieldA (encRRI2 op fn a b imm) = a := by
  have := fn.isLt; have := a.field.isLt; have := b.field.isLt
  have h : (encRRI2 op fn a b imm).extractLsb' 17 5 = a.field := by
    apply BitVec.eq_of_toNat_eq
    simp only [encRRI2, BitVec.extractLsb'_toNat, toNat_append_eq, Nat.shiftRight_eq_div_pow, Nat.reducePow]
    have h1 : imm.toNat / 256 % 32 < 32 := Nat.mod_lt _ (by omega)
    have h2 : imm.toNat / 1 % 256 < 256 := Nat.mod_lt _ (by omega)
    have h3 : imm.toNat = imm.toNat / 256 % 32 * 256 + imm.toNat / 1 % 256 := by omega
    generalize imm.toNat / 256 % 32 = p at *
    generalize imm.toNat / 1 % 256 = q at *
    rw [Nat.div_eq_of_lt_le (k := (op.toNat * 32 + p) * 32 + a.field.toNat) (by omega) (by omega)]
    omega
  rw [fieldA, h, regOfField_field]
@[simp] theorem fieldB_encRRI2 (op : BitVec 5) (fn : BitVec 4) (a b : Reg) (imm : BitVec 13) :
    fieldB (encRRI2 op fn a b imm) = b := by
  have := b.field.isLt
  have h : (encRRI2 op fn a b imm).extractLsb' 8 5 = b.field := by
    apply BitVec.eq_of_toNat_eq
    simp only [encRRI2, BitVec.extractLsb'_toNat, toNat_append_eq, Nat.shiftRight_eq_div_pow, Nat.reducePow]
    have h1 : imm.toNat / 256 % 32 < 32 := Nat.mod_lt _ (by omega)
    have h2 : imm.toNat / 1 % 256 < 256 := Nat.mod_lt _ (by omega)
    have h3 : imm.toNat = imm.toNat / 256 % 32 * 256 + imm.toNat / 1 % 256 := by omega
    generalize imm.toNat / 256 % 32 = p at *
    generalize imm.toNat / 1 % 256 = q at *
    omega
  rw [fieldB, h, regOfField_field]
@[simp] theorem immRRI2_encRRI2 (op : BitVec 5) (fn : BitVec 4) (a b : Reg) (imm : BitVec 13) :
    immRRI2 (encRRI2 op fn a b imm) = imm := by
  have := fn.isLt; have := a.field.isLt; have := b.field.isLt; have := imm.isLt
  apply BitVec.eq_of_toNat_eq
  simp only [immRRI2, encRRI2, BitVec.extractLsb'_toNat, toNat_append_eq, Nat.shiftRight_eq_div_pow, Nat.reducePow]
  have h1 : imm.toNat / 256 % 32 < 32 := Nat.mod_lt _ (by omega)
  have h2 : imm.toNat / 1 % 256 < 256 := Nat.mod_lt _ (by omega)
  have h3 : imm.toNat = imm.toNat / 256 % 32 * 256 + imm.toNat / 1 % 256 := by omega
  generalize imm.toNat / 256 % 32 = p at *
  generalize imm.toNat / 1 % 256 = q at *
  rw [Nat.div_eq_of_lt_le (k := op.toNat * 32 + p) (by omega) (by omega)]
  omega

/-! Format RI (R94) -/

@[simp] theorem opcodeOf_encRI (op : BitVec 5) (c : Reg) (imm : BitVec 22) : opcodeOf (encRI op c imm) = op := by
  have := op.isLt; have := c.field.isLt; have := imm.isLt
  apply BitVec.eq_of_toNat_eq
  simp only [opcodeOf, encRI, BitVec.extractLsb'_toNat, toNat_append_eq, Nat.shiftRight_eq_div_pow, Nat.reducePow]
  omega
@[simp] theorem fieldC_encRI (op : BitVec 5) (c : Reg) (imm : BitVec 22) : fieldC (encRI op c imm) = c := by
  have := c.field.isLt; have := imm.isLt
  have h : (encRI op c imm).extractLsb' 22 5 = c.field := by
    apply BitVec.eq_of_toNat_eq
    simp only [encRI, BitVec.extractLsb'_toNat, toNat_append_eq, Nat.shiftRight_eq_div_pow, Nat.reducePow]
    omega
  rw [fieldC, h, regOfField_field]
@[simp] theorem immRI_encRI (op : BitVec 5) (c : Reg) (imm : BitVec 22) : immRI (encRI op c imm) = imm := by
  have := imm.isLt
  apply BitVec.eq_of_toNat_eq
  simp only [immRI, encRI, BitVec.extractLsb'_toNat, toNat_append_eq, Nat.shiftRight_eq_div_pow, Nat.reducePow]
  omega

/-! Format RI2 (R95) -/

@[simp] theorem opcodeOf_encRI2 (op : BitVec 5) (a : Reg) (imm : BitVec 22) : opcodeOf (encRI2 op a imm) = op := by
  have := op.isLt; have := a.field.isLt; have := imm.isLt
  apply BitVec.eq_of_toNat_eq
  simp only [opcodeOf, encRI2, BitVec.extractLsb'_toNat, toNat_append_eq, Nat.shiftRight_eq_div_pow, Nat.reducePow]
  have h1 : imm.toNat / 131072 % 32 < 32 := Nat.mod_lt _ (by omega)
  have h2 : imm.toNat / 1 % 131072 < 131072 := Nat.mod_lt _ (by omega)
  have h3 : imm.toNat = imm.toNat / 131072 % 32 * 131072 + imm.toNat / 1 % 131072 := by omega
  generalize imm.toNat / 131072 % 32 = p at *
  generalize imm.toNat / 1 % 131072 = q at *
  rw [Nat.div_eq_of_lt_le (k := op.toNat) (by omega) (by omega)]
  omega
@[simp] theorem fieldA_encRI2 (op : BitVec 5) (a : Reg) (imm : BitVec 22) : fieldA (encRI2 op a imm) = a := by
  have := a.field.isLt; have := imm.isLt
  have h : (encRI2 op a imm).extractLsb' 17 5 = a.field := by
    apply BitVec.eq_of_toNat_eq
    simp only [encRI2, BitVec.extractLsb'_toNat, toNat_append_eq, Nat.shiftRight_eq_div_pow, Nat.reducePow]
    have h1 : imm.toNat / 131072 % 32 < 32 := Nat.mod_lt _ (by omega)
    have h2 : imm.toNat / 1 % 131072 < 131072 := Nat.mod_lt _ (by omega)
    have h3 : imm.toNat = imm.toNat / 131072 % 32 * 131072 + imm.toNat / 1 % 131072 := by omega
    generalize imm.toNat / 131072 % 32 = p at *
    generalize imm.toNat / 1 % 131072 = q at *
    omega
  rw [fieldA, h, regOfField_field]
@[simp] theorem immRI2_encRI2 (op : BitVec 5) (a : Reg) (imm : BitVec 22) : immRI2 (encRI2 op a imm) = imm := by
  have := a.field.isLt; have := imm.isLt
  apply BitVec.eq_of_toNat_eq
  simp only [immRI2, encRI2, BitVec.extractLsb'_toNat, toNat_append_eq, Nat.shiftRight_eq_div_pow, Nat.reducePow]
  have h1 : imm.toNat / 131072 % 32 < 32 := Nat.mod_lt _ (by omega)
  have h2 : imm.toNat / 1 % 131072 < 131072 := Nat.mod_lt _ (by omega)
  have h3 : imm.toNat = imm.toNat / 131072 % 32 * 131072 + imm.toNat / 1 % 131072 := by omega
  generalize imm.toNat / 131072 % 32 = p at *
  generalize imm.toNat / 1 % 131072 = q at *
  omega

/-! Formats I (R96) and N (R101) -/

@[simp] theorem opcodeOf_encI (op : BitVec 5) (imm : BitVec 27) : opcodeOf (encI op imm) = op := by
  have := op.isLt; have := imm.isLt
  apply BitVec.eq_of_toNat_eq
  simp only [opcodeOf, encI, BitVec.extractLsb'_toNat, toNat_append_eq, Nat.shiftRight_eq_div_pow, Nat.reducePow]
  omega
@[simp] theorem immI_encI (op : BitVec 5) (imm : BitVec 27) : immI (encI op imm) = imm := by
  have := imm.isLt
  apply BitVec.eq_of_toNat_eq
  simp only [immI, encI, BitVec.extractLsb'_toNat, toNat_append_eq, Nat.shiftRight_eq_div_pow, Nat.reducePow]
  omega
@[simp] theorem opcodeOf_encN (op : BitVec 5) : opcodeOf (encN op) = op := by revert op; decide

/-! Format PB (R102) -/

@[simp] theorem opcodeOf_encPB (l : PbLayout) (op n : BitVec 5) (f : BitVec 4) : opcodeOf (encPB l op n f) = op := by
  have := op.isLt; have := n.isLt; have := f.isLt
  apply BitVec.eq_of_toNat_eq
  cases l <;>
  · simp only [opcodeOf, encPB, BitVec.extractLsb'_toNat, toNat_append_eq, Nat.shiftRight_eq_div_pow, Nat.reducePow,
      BitVec.ofNat_eq_ofNat, BitVec.toNat_ofNat]
    omega
/-- F1 is read back where it is one of the two values that select an instruction. -/
theorem f1Of_encPB (l : PbLayout) (op n : BitVec 5) (f : BitVec 4) (hf : f.toNat ≤ 1) : f1Of l (encPB l op n f) = f := by
  have := n.isLt
  apply BitVec.eq_of_toNat_eq
  cases l <;>
  · simp only [f1Of, encPB, BitVec.extractLsb'_toNat, BitVec.toNat_setWidth, toNat_append_eq, Nat.shiftRight_eq_div_pow, Nat.reducePow,
      BitVec.ofNat_eq_ofNat, BitVec.toNat_ofNat]
    omega
/-- FN2 is read back where the layout has room for it. -/
theorem fn2Of_encPB (l : PbLayout) (op n : BitVec 5) (f : BitVec 4) (hn : l.admits n = true) :
    fn2Of l (encPB l op n f) = n := by
  have := n.isLt; have := f.isLt
  apply BitVec.eq_of_toNat_eq
  cases l
  · have : n.toNat < 16 := by simpa [PbLayout.admits] using hn
    simp only [fn2Of, encPB, BitVec.extractLsb'_toNat, BitVec.toNat_setWidth, toNat_append_eq,
      Nat.shiftRight_eq_div_pow, Nat.reducePow, BitVec.ofNat_eq_ofNat, BitVec.toNat_ofNat]
    omega
  · simp only [fn2Of, encPB, BitVec.extractLsb'_toNat, toNat_append_eq, Nat.shiftRight_eq_div_pow, Nat.reducePow,
      BitVec.ofNat_eq_ofNat, BitVec.toNat_ofNat]
    omega

end Sys2Proof
end

