-- ==== Sys2Proof/Laws/State.lean ====
section
/-! SUPPORT. What each update of the state does to each field and each register, so that no later proof unfolds a
record update. -/

namespace Sys2Proof.Machine

@[simp] theorem State.advance_cfg (s : State) :
    (s.advance).cfg = s.cfg := rfl
@[simp] theorem State.advance_gpr (s : State) :
    (s.advance).gpr = s.gpr := rfl
@[simp] theorem State.advance_pc (s : State) :
    (s.advance).pc = s.pc + 4 := rfl
@[simp] theorem State.advance_ir (s : State) :
    (s.advance).ir = s.ir := rfl
@[simp] theorem State.advance_sr (s : State) :
    (s.advance).sr = s.sr := rfl
@[simp] theorem State.advance_mem (s : State) :
    (s.advance).mem = s.mem := rfl
@[simp] theorem State.advance_irq (s : State) :
    (s.advance).irq = s.irq := rfl

@[simp] theorem State.jumpTo_cfg (s : State) (a : Addr) :
    (s.jumpTo a).cfg = s.cfg := rfl
@[simp] theorem State.jumpTo_gpr (s : State) (a : Addr) :
    (s.jumpTo a).gpr = s.gpr := rfl
@[simp] theorem State.jumpTo_pc (s : State) (a : Addr) :
    (s.jumpTo a).pc = align a s.cfg.jumpIgnoredBits := rfl
@[simp] theorem State.jumpTo_ir (s : State) (a : Addr) :
    (s.jumpTo a).ir = s.ir := rfl
@[simp] theorem State.jumpTo_sr (s : State) (a : Addr) :
    (s.jumpTo a).sr = s.sr := rfl
@[simp] theorem State.jumpTo_mem (s : State) (a : Addr) :
    (s.jumpTo a).mem = s.mem := rfl
@[simp] theorem State.jumpTo_irq (s : State) (a : Addr) :
    (s.jumpTo a).irq = s.irq := rfl

@[simp] theorem State.sampled_cfg (s : State) :
    (s.sampled).cfg = s.cfg := rfl
@[simp] theorem State.sampled_gpr (s : State) :
    (s.sampled).gpr = s.gpr := rfl
@[simp] theorem State.sampled_pc (s : State) :
    (s.sampled).pc = s.pc := rfl
@[simp] theorem State.sampled_ir (s : State) :
    (s.sampled).ir = s.ir := rfl
@[simp] theorem State.sampled_sr (s : State) :
    (s.sampled).sr = s.sr := rfl
@[simp] theorem State.sampled_mem (s : State) :
    (s.sampled).mem = s.mem := rfl
@[simp] theorem State.sampled_irq (s : State) :
    (s.sampled).irq = s.irq.later := rfl

@[simp] theorem State.setReg_cfg (s : State) (r : Reg) (v : RegVal) :
    (s.setReg r v).cfg = s.cfg := by cases r <;> rfl
@[simp] theorem State.setReg_pc (s : State) (r : Reg) (v : RegVal) :
    (s.setReg r v).pc = s.pc := by cases r <;> rfl
@[simp] theorem State.setReg_ir (s : State) (r : Reg) (v : RegVal) :
    (s.setReg r v).ir = s.ir := by cases r <;> rfl
@[simp] theorem State.setReg_sr (s : State) (r : Reg) (v : RegVal) :
    (s.setReg r v).sr = s.sr := by cases r <;> rfl
@[simp] theorem State.setReg_mem (s : State) (r : Reg) (v : RegVal) :
    (s.setReg r v).mem = s.mem := by cases r <;> rfl
@[simp] theorem State.setReg_irq (s : State) (r : Reg) (v : RegVal) :
    (s.setReg r v).irq = s.irq := by cases r <;> rfl

@[simp] theorem State.memWrite_cfg (s : State) (a : Addr) (n v : Nat) :
    (memWrite s a n v).cfg = s.cfg := rfl
@[simp] theorem State.memWrite_gpr (s : State) (a : Addr) (n v : Nat) :
    (memWrite s a n v).gpr = s.gpr := rfl
@[simp] theorem State.memWrite_pc (s : State) (a : Addr) (n v : Nat) :
    (memWrite s a n v).pc = s.pc := rfl
@[simp] theorem State.memWrite_ir (s : State) (a : Addr) (n v : Nat) :
    (memWrite s a n v).ir = s.ir := rfl
@[simp] theorem State.memWrite_sr (s : State) (a : Addr) (n v : Nat) :
    (memWrite s a n v).sr = s.sr := rfl
@[simp] theorem State.memWrite_mem (s : State) (a : Addr) (n v : Nat) :
    (memWrite s a n v).mem = s.mem.writeBytes a (s.cfg.endian.bytes n v) := rfl
@[simp] theorem State.memWrite_irq (s : State) (a : Addr) (n v : Nat) :
    (memWrite s a n v).irq = s.irq := rfl

@[simp] theorem State.trapReturn_cfg (s : State) :
    (trapReturn s).cfg = s.cfg := rfl
@[simp] theorem State.trapReturn_gpr (s : State) :
    (trapReturn s).gpr = s.gpr := rfl
@[simp] theorem State.trapReturn_pc (s : State) :
    (trapReturn s).pc = s.ir := rfl
@[simp] theorem State.trapReturn_ir (s : State) :
    (trapReturn s).ir = s.ir := rfl
@[simp] theorem State.trapReturn_sr (s : State) :
    (trapReturn s).sr = withStatusBit s.sr 0 false := rfl
@[simp] theorem State.trapReturn_mem (s : State) :
    (trapReturn s).mem = s.mem := rfl
@[simp] theorem State.trapReturn_irq (s : State) :
    (trapReturn s).irq = s.irq := rfl

@[simp] theorem State.withdrawRequest_cfg (s : State) :
    (withdrawRequest s).cfg = s.cfg := rfl
@[simp] theorem State.withdrawRequest_gpr (s : State) :
    (withdrawRequest s).gpr = s.gpr := rfl
@[simp] theorem State.withdrawRequest_pc (s : State) :
    (withdrawRequest s).pc = s.pc := rfl
@[simp] theorem State.withdrawRequest_ir (s : State) :
    (withdrawRequest s).ir = s.ir := rfl
@[simp] theorem State.withdrawRequest_sr (s : State) :
    (withdrawRequest s).sr = s.sr := rfl
@[simp] theorem State.withdrawRequest_mem (s : State) :
    (withdrawRequest s).mem = s.mem := rfl

/-! Writing registers -/

@[simp] theorem State.setReg_gpr (s : State) (k : Fin 28) (v : RegVal) :
    (s.setReg (.gpr k) v).gpr = s.gpr.set k.val (clip s.cfg v) := rfl
theorem State.setReg_of_not_writable {s : State} {r : Reg} {v : RegVal} (h : r.writable = false) :
    s.setReg r v = s := by cases r <;> first | rfl | cases h

/-! Reading registers -/

@[simp] theorem State.reg_zr (s : State) : s.reg .zr = 0 := rfl
@[simp] theorem State.reg_gpr (s : State) (k : Fin 28) : s.reg (.gpr k) = s.gpr[k.val] := rfl
@[simp] theorem State.reg_ir (s : State) : s.reg .ir = s.ir.setWidth 64 := rfl
@[simp] theorem State.reg_ip (s : State) : s.reg .ip = s.pc.setWidth 64 := rfl
@[simp] theorem State.reg_sr (s : State) : s.reg .sr = s.sr.setWidth 64 := rfl

theorem State.setReg_gpr_same (s : State) (k : Fin 28) (v : RegVal) :
    (s.setReg (.gpr k) v).gpr[k.val] = clip s.cfg v := by simp
theorem State.setReg_gpr_ne (s : State) {r : Reg} {k : Fin 28} (v : RegVal) (h : r ≠ .gpr k) :
    (s.setReg r v).gpr[k.val] = s.gpr[k.val] := by
  cases r with
  | gpr j =>
    have hjk : j.val ≠ k.val := fun e => h (congrArg Reg.gpr (Fin.ext e))
    simp [Vector.getElem_set_ne _ _ hjk]
  | _ => rfl

/-- A read of a register after an update depends on the fields the register is made of. -/
theorem State.reg_congr {s t : State} (r : Reg) (hg : t.gpr = s.gpr) (hi : t.ir = s.ir) (hp : t.pc = s.pc)
    (hs : t.sr = s.sr) : t.reg r = s.reg r := by
  cases r <;> simp [hg, hi, hp, hs]

@[simp] theorem State.reg_sampled (s : State) (r : Reg) : s.sampled.reg r = s.reg r :=
  State.reg_congr r rfl rfl rfl rfl
@[simp] theorem State.reg_memWrite (s : State) (a : Addr) (n v : Nat) (r : Reg) :
    (memWrite s a n v).reg r = s.reg r := State.reg_congr r rfl rfl rfl rfl

/-! The mode -/

@[simp] theorem State.wide_sampled (s : State) : s.sampled.wide = s.wide := rfl
@[simp] theorem State.wide_advance (s : State) : s.advance.wide = s.wide := rfl
@[simp] theorem State.wide_memWrite (s : State) (a : Addr) (n v : Nat) : (memWrite s a n v).wide = s.wide := rfl
@[simp] theorem State.wide_setReg (s : State) (r : Reg) (v : RegVal) : (s.setReg r v).wide = s.wide := by
  cases r <;> rfl
theorem State.wide_of_base {s : State} (h : s.cfg.hasQ64 = false) : s.wide = false := by simp [State.wide, h]

/-! The interrupt input -/

@[simp] theorem IrqInput.now_held (b : Bool) : (IrqInput.held b).now = b := rfl
@[simp] theorem IrqInput.now_free (n : Nat) : (IrqInput.free n).now = Config.irqInput n := rfl
@[simp] theorem IrqInput.now_value (b : Bool) (i : IrqInput) : (IrqInput.value b i).now = b := rfl
@[simp] theorem IrqInput.later_held (b : Bool) : (IrqInput.held b).later = .held b := rfl
@[simp] theorem IrqInput.later_free (n : Nat) : (IrqInput.free n).later = .free (n + 1) := rfl
@[simp] theorem IrqInput.later_value (b : Bool) (i : IrqInput) : (IrqInput.value b i).later = i := rfl
@[simp] theorem IrqInput.after_zero (i : IrqInput) : i.after 0 = i.now := rfl
@[simp] theorem IrqInput.after_succ (i : IrqInput) (n : Nat) : i.after (n + 1) = i.later.after n := rfl

/-- A held request has its value at every boundary. -/
@[simp] theorem IrqInput.after_held (b : Bool) (n : Nat) : (IrqInput.held b).after n = b := by
  induction n <;> simp_all

/-- An unconstrained input has the free value of each boundary. -/
@[simp] theorem IrqInput.after_free (n k : Nat) : (IrqInput.free n).after k = Config.irqInput (n + k) := by
  induction k generalizing n with
  | zero => rfl
  | succ k ih => rw [after_succ, later_free, ih]; congr 1; omega

/-! The state after reset -/

@[simp] theorem State.reset_pc : State.reset.pc = 0x00000008 := rfl
@[simp] theorem State.reset_sr : State.reset.sr = 1 := rfl
@[simp] theorem State.reset_ir : State.reset.ir = 0 := rfl
@[simp] theorem State.reset_mem : State.reset.mem = [] := rfl
@[simp] theorem State.reset_irq : State.reset.irq = .free 0 := rfl
@[simp] theorem State.reset_cfg : State.reset.cfg = defaultConfig := rfl

end Sys2Proof.Machine
end

