-- ==== Sys2Proof/Laws/Memory.lean ====
section
/-! SUPPORT. The laws of memory: a read after a write, the canonical form, and runs of bytes. -/

namespace Sys2Proof.Machine

/-! One byte -/

theorem Memory.read_write_same (m : Memory) (a : Nat) (v : Byte) (hm : m.Pairwise fun x y => x.1 < y.1) :
    (m.write a v).read a = v := by
  induction m with
  | nil => by_cases hv : v = Memory.unlisted <;> simp [Memory.write, Memory.read, hv]
  | cons e m ih =>
    obtain ⟨k, b⟩ := e
    have hm' := List.pairwise_cons.mp hm
    have absent : ∀ m : Memory, (∀ y ∈ m, a < y.1) → m.read a = Memory.unlisted := by
      intro m
      induction m with
      | nil => intro _; rfl
      | cons y m ih =>
        intro h
        have hy := h y (List.mem_cons_self ..)
        simp only [Memory.read]
        rw [if_neg (by omega)]
        exact ih fun z hz => h z (List.mem_cons_of_mem _ hz)
    by_cases h1 : a < k
    · by_cases hv : v = Memory.unlisted
      · simp only [Memory.write, if_pos h1, hv]
        refine absent _ fun y hy => ?_
        rcases List.mem_cons.mp hy with rfl | hy
        · exact h1
        · exact Nat.lt_trans h1 (hm'.1 y hy)
      · simp [Memory.write, Memory.read, h1, hv]
    · by_cases h2 : a = k
      · by_cases hv : v = Memory.unlisted
        · simp only [Memory.write, if_neg h1, if_pos h2, hv]
          exact absent _ fun y hy => h2 ▸ hm'.1 y hy
        · simp [Memory.write, Memory.read, h2, hv]
      · simp [Memory.write, Memory.read, h1, h2, Ne.symm h2, ih hm'.2]

theorem Memory.read_write_ne (m : Memory) {a x : Nat} (v : Byte) (h : x ≠ a) :
    (m.write a v).read x = m.read x := by
  induction m with
  | nil => by_cases hv : v = Memory.unlisted <;> simp [Memory.write, Memory.read, hv, Ne.symm h]
  | cons e m ih =>
    obtain ⟨k, b⟩ := e
    by_cases h1 : a < k
    · by_cases hv : v = Memory.unlisted <;> simp [Memory.write, Memory.read, h1, hv, Ne.symm h]
    · by_cases h2 : a = k
      · subst h2
        by_cases hv : v = Memory.unlisted <;> simp [Memory.write, Memory.read, hv, Ne.symm h]
      · simp [Memory.write, Memory.read, h1, h2, ih]

/-! The canonical form -/

theorem Memory.wf_iff (m : Memory) :
    m.wf = true ↔ (m.Pairwise fun x y => x.1 < y.1) ∧ ∀ e ∈ m, e.1 < 2 ^ 32 ∧ e.2 ≠ Memory.unlisted := by
  simp [Memory.wf]

theorem Memory.mem_write {m : Memory} {a : Nat} {v : Byte} {e : Host.Cell} (he : e ∈ m.write a v) :
    e ∈ m ∨ (e = (a, v) ∧ v ≠ Memory.unlisted) := by
  induction m with
  | nil =>
    by_cases hv : v = Memory.unlisted <;> simp_all [Memory.write]
  | cons x m ih =>
    obtain ⟨k, b⟩ := x
    simp only [Memory.write] at he
    split at he
    · split at he
      · exact .inl he
      · rcases List.mem_cons.mp he with rfl | he
        · exact .inr ⟨rfl, ‹_›⟩
        · exact .inl he
    · split at he
      · split at he
        · exact .inl (List.mem_cons_of_mem _ he)
        · rename_i hak hv
          rcases List.mem_cons.mp he with rfl | he
          · exact .inr ⟨by rw [hak], hv⟩
          · exact .inl (List.mem_cons_of_mem _ he)
      · rcases List.mem_cons.mp he with rfl | he
        · exact .inl (List.mem_cons_self ..)
        · rcases ih he with h | h
          · exact .inl (List.mem_cons_of_mem _ h)
          · exact .inr h

theorem Memory.pairwise_write {m : Memory} (a : Nat) (v : Byte) (hm : m.Pairwise fun x y => x.1 < y.1) :
    (m.write a v).Pairwise fun x y => x.1 < y.1 := by
  induction m with
  | nil => by_cases hv : v = Memory.unlisted <;> simp [Memory.write, hv]
  | cons x m ih =>
    obtain ⟨k, b⟩ := x
    have hm' := List.pairwise_cons.mp hm
    simp only [Memory.write]
    split
    · split
      · exact hm
      · refine List.pairwise_cons.mpr ⟨fun y hy => ?_, hm⟩
        rcases List.mem_cons.mp hy with rfl | hy
        · assumption
        · exact Nat.lt_trans ‹a < k› (hm'.1 y hy)
    · split
      · split
        · exact hm'.2
        · exact List.pairwise_cons.mpr ⟨hm'.1, hm'.2⟩
      · refine List.pairwise_cons.mpr ⟨fun y hy => ?_, ih hm'.2⟩
        rcases Memory.mem_write hy with hy | ⟨rfl, -⟩
        · exact hm'.1 y hy
        · have h1 : ¬ a < k := ‹_›
          have h2 : ¬ a = k := ‹_›
          show k < a
          omega

/-- A write of a byte keeps the canonical form. -/
theorem Memory.wf_write {m : Memory} {a : Nat} (v : Byte) (ha : a < 2 ^ 32) (hm : m.wf = true) :
    (m.write a v).wf = true := by
  rw [Memory.wf_iff] at hm ⊢
  refine ⟨Memory.pairwise_write a v hm.1, fun e he => ?_⟩
  rcases Memory.mem_write he with h | ⟨rfl, hv⟩
  · exact hm.2 e h
  · exact ⟨ha, hv⟩

/-- A write of a run of bytes keeps the canonical form. -/
theorem Memory.wf_writeBytes {m : Memory} (a : Addr) (bs : List Byte) (hm : m.wf = true) :
    (m.writeBytes a bs).wf = true := by
  induction bs generalizing m a with
  | nil => exact hm
  | cons b bs ih => exact ih (a + 1) (Memory.wf_write b a.isLt hm)

/-- The state's memory keeps its canonical form under a store. -/
theorem memWrite_wf {s : State} (a : Addr) (n v : Nat) (h : s.mem.wf = true) : (memWrite s a n v).mem.wf = true :=
  Memory.wf_writeBytes a _ h

/-! Runs of bytes -/

theorem addr_succ (a : Addr) (j : Nat) : a + BitVec.ofNat 32 (j + 1) = a + 1 + BitVec.ofNat 32 j := by
  rw [BitVec.ofNat_add, BitVec.add_assoc, BitVec.add_comm (BitVec.ofNat 32 j)]
  rfl

/-- Addresses at different distances below 2^32 differ. -/
theorem addr_ne (a : Addr) {i j : Nat} (hi : i < 2 ^ 32) (hj : j < 2 ^ 32) (h : i ≠ j) :
    (a + BitVec.ofNat 32 i).toNat ≠ (a + BitVec.ofNat 32 j).toNat := by
  have := a.isLt
  simp only [BitVec.toNat_add, BitVec.toNat_ofNat]
  omega

/-- A run of bytes leaves every other address alone. -/
theorem Memory.read_writeBytes_out (m : Memory) (a : Addr) (bs : List Byte) (x : Nat)
    (h : ∀ j < bs.length, x ≠ (a + BitVec.ofNat 32 j).toNat) : (m.writeBytes a bs).read x = m.read x := by
  induction bs generalizing m a with
  | nil => rfl
  | cons b bs ih =>
    have h0 : x ≠ a.toNat := by simpa using h 0 (by simp)
    rw [Memory.writeBytes, ih, Memory.read_write_ne _ _ h0]
    intro j hj
    have := h (j + 1) (by simpa using hj)
    rwa [addr_succ] at this

/-- Each byte of a run stands at its address. -/
theorem Memory.read_writeBytes_in {m : Memory} (a : Addr) (bs : List Byte) (j : Nat)
    (hm : m.Pairwise fun x y => x.1 < y.1) (hl : bs.length ≤ 2 ^ 32) (hj : j < bs.length) :
    (m.writeBytes a bs).read (a + BitVec.ofNat 32 j).toNat = bs[j] := by
  induction bs generalizing m a j with
  | nil => simp at hj
  | cons b bs ih =>
    have hl' : bs.length + 1 ≤ 2 ^ 32 := by simpa using hl
    cases j with
    | zero =>
      have e : a + BitVec.ofNat 32 0 = a := by simp
      rw [Memory.writeBytes, e, Memory.read_writeBytes_out]
      · exact Memory.read_write_same m a.toNat b hm
      · intro i hi
        have h := addr_ne a (i := 0) (j := i + 1) (by omega) (by omega) (by omega)
        rwa [addr_succ, BitVec.ofNat_eq_ofNat, BitVec.add_zero] at h
    | succ j =>
      rw [Memory.writeBytes, addr_succ]
      simpa using ih (a + 1) j (Memory.pairwise_write a.toNat b hm) (by omega) (by simpa using hj)

@[simp] theorem Memory.length_readBytes (m : Memory) (a : Addr) (n : Nat) : (m.readBytes a n).length = n := by
  induction n generalizing a with
  | zero => rfl
  | succ n ih => simp [Memory.readBytes, ih]

theorem Memory.getElem_readBytes (m : Memory) (a : Addr) (n j : Nat) (hj : j < n) :
    (m.readBytes a n)[j]'(by simpa using hj) = m.read (a + BitVec.ofNat 32 j).toNat := by
  induction n generalizing a j with
  | zero => omega
  | succ n ih =>
    cases j with
    | zero => simp [Memory.readBytes]
    | succ j =>
      rw [addr_succ, ← ih (a + 1) j (by omega)]
      rfl

/-! Bytes and values -/

@[simp] theorem length_splitBytes (n v : Nat) : (splitBytes n v).length = n := by
  induction n generalizing v with
  | zero => rfl
  | succ n ih => simp [splitBytes, ih]

@[simp] theorem Endian.length_order (e : Endian) (bs : List Byte) : (e.order bs).length = bs.length := by
  cases e <;> simp [Endian.order]

@[simp] theorem Endian.length_bytes (e : Endian) (n v : Nat) : (e.bytes n v).length = n := by
  simp [Endian.bytes]

@[simp] theorem Endian.order_order (e : Endian) (bs : List Byte) : e.order (e.order bs) = bs := by
  cases e <;> simp [Endian.order]

theorem joinBytes_splitBytes (n v : Nat) : joinBytes (splitBytes n v) = v % 256 ^ n := by
  induction n generalizing v with
  | zero => simp [splitBytes, joinBytes, Nat.mod_one]
  | succ n ih =>
    have h : v % 256 ^ (n + 1) = v % 256 + 256 * (v / 256 % 256 ^ n) := by
      rw [Nat.pow_succ', Nat.mod_mul]
    rw [splitBytes, joinBytes, ih, h]
    simp

/-- An access's bytes carry its value, in either byte order. -/
theorem Endian.value_bytes (e : Endian) (n v : Nat) : e.value (e.bytes n v) = v % 256 ^ n := by
  simp [Endian.value, Endian.bytes, joinBytes_splitBytes]

theorem joinBytes_lt (bs : List Byte) : joinBytes bs < 256 ^ bs.length := by
  induction bs with
  | nil => simp [joinBytes]
  | cons b bs ih =>
    have := b.isLt
    simp only [joinBytes, List.length_cons, Nat.pow_succ]
    omega

/-- The value of an access of `n` bytes fits `8n` bits. -/
theorem memRead_lt (s : State) (a : Addr) (n : Nat) : memRead s a n < 256 ^ n := by
  have := joinBytes_lt (s.cfg.endian.order (s.mem.readBytes a n))
  simpa [memRead, Endian.value] using this

end Sys2Proof.Machine
end

