-- ==== Sys2Proof/Laws/Ops.lean ====
section
/-! SUPPORT. One lemma for each shared operation, saying everything it can do: cite it instead of unfolding the
operation. -/

namespace Sys2Proof.Machine

/-! Accesses -/

/-- An access goes on exactly where every byte of it is populated. -/
theorem access_next {α : Type} {s : State} {a : Addr} {n : Nat} {k : Host.Outcome α Fault Refusal} {t : α} :
    access s a n k = .next t ↔ backs s.cfg a n = true ∧ k = .next t := by
  unfold access; split <;> simp_all

theorem access_of_backs {α : Type} {s : State} {a : Addr} {n : Nat} {k : Host.Outcome α Fault Refusal}
    (h : backs s.cfg a n = true) : access s a n k = k := by simp [access, h]

theorem access_of_not_backs {α : Type} {s : State} {a : Addr} {n : Nat} {k : Host.Outcome α Fault Refusal}
    (h : backs s.cfg a n = false) : access s a n k = .fault (.unpopulated a) := by simp [access, h]

/-- A run of bytes is populated exactly where each of them is. -/
theorem backs_iff (c : Config) (a : Addr) (n : Nat) :
    backs c a n = true ↔ ∀ j < n, backed c (a + BitVec.ofNat 32 j) = true := by
  induction n generalizing a with
  | zero => simp [backs]
  | succ n ih =>
    simp only [backs, Bool.and_eq_true, ih]
    constructor
    · rintro ⟨h0, h⟩ j hj
      cases j with
      | zero => simpa using h0
      | succ j => rw [addr_succ]; exact h j (by omega)
    · intro h
      refine ⟨by simpa using h 0 (by omega), fun j hj => ?_⟩
      rw [← addr_succ]
      exact h (j + 1) (by omega)

/-! Loads, stores, jumps, the ALU -/

theorem load_next {n k : Nat} {c a : Reg} {imm : BitVec 13} {s t : State} :
    load n k c a imm s = .next t ↔ backs s.cfg (align (effAddr s a imm) k) n = true ∧
      t = (s.setReg c (widenLoad s.cfg n (memRead s (align (effAddr s a imm) k) n))).advance := by
  simp only [load, access_next, Host.Outcome.next.injEq, eq_comm (b := t)]

theorem store_next {n k : Nat} {b a : Reg} {imm : BitVec 13} {s t : State} :
    store n k b a imm s = .next t ↔ backs s.cfg (align (effAddr s a imm) k) n = true ∧
      t = (memWrite s (align (effAddr s a imm) k) n (s.reg b).toNat).advance := by
  simp only [store, access_next, Host.Outcome.next.injEq, eq_comm (b := t)]

/-- A conditional jump takes its target where the condition holds, else advances; it changes nothing but the pc. -/
theorem condJump_next {cond : (w : Nat) → BitVec w → BitVec w → Bool} {a b : Reg} {imm : BitVec 13} {s t : State} :
    condJump cond a b imm s = .next t ↔
      (condHolds cond a b s = true ∧ t = s.jumpTo (pcTarget s imm)) ∨
      (condHolds cond a b s = false ∧ t = s.advance) := by
  cases h : condHolds cond a b s <;> simp [condJump, h, eq_comm]

/-- An ALU instruction writes its result to its destination and advances. -/
theorem alu_next {f : (w : Nat) → BitVec w → BitVec w → BitVec w} {c a : Reg} {b : (w : Nat) → BitVec w} {s t : State} :
    alu f c a b s = .next t ↔ t = (s.setReg c (aluResult f c a b s)).advance := by
  simp only [alu, Host.Outcome.next.injEq, eq_comm]

theorem aluReg_next {f : (w : Nat) → BitVec w → BitVec w → BitVec w} {c a b : Reg} {s t : State} :
    aluReg f c a b s = .next t ↔
      t = (s.setReg c (aluResult f c a (fun w => (s.reg b).setWidth w) s)).advance := alu_next

theorem aluRegImm_next {f : (w : Nat) → BitVec w → BitVec w → BitVec w} {c a : Reg} {imm : BitVec 13} {s t : State} :
    aluRegImm f c a imm s = .next t ↔ t = (s.setReg c (aluResult f c a (aluImm s.cfg imm) s)).advance := alu_next

/-! Alignment -/

/-- `align` rounds down to a multiple of 2^k. -/
theorem toNat_align (a : Addr) (k : Nat) : (align a k).toNat = a.toNat / 2 ^ k * 2 ^ k := by
  have h : a.toNat / 2 ^ k * 2 ^ k ≤ a.toNat := Nat.div_mul_le_self ..
  have := a.isLt
  simp only [align, BitVec.toNat_shiftLeft, BitVec.toNat_ushiftRight, Nat.shiftLeft_eq, Nat.shiftRight_eq_div_pow]
  exact Nat.mod_eq_of_lt (by omega)

/-! Traps -/

/-- A vector's target: the vector's own address, or the populated, aligned value it holds. -/
theorem vectorTarget_next {s : State} {v : Vec} {t : Addr} :
    vectorTarget s v = .next t ↔
      (s.cfg.vectorMode = .code ∧ t = vectorAddr v) ∨
      (s.cfg.vectorMode = .pointer ∧ backs s.cfg (vectorAddr v) 4 = true ∧
        t = BitVec.ofNat 32 (memRead s (vectorAddr v) 4) ∧ t.toNat % 4 = 0) := by
  unfold vectorTarget
  split
  · rename_i hm
    simp only [hm, true_and, reduceCtorEq, false_and, or_false, Host.Outcome.next.injEq]
    exact eq_comm
  · rename_i hm
    simp only [hm, true_and, reduceCtorEq, false_and, false_or, access_next]
    refine and_congr_right fun _ => ?_
    by_cases h : (BitVec.ofNat 32 (memRead s (vectorAddr v) 4)).toNat % 4 = 0
    · simp only [h, if_true, Host.Outcome.next.injEq]
      exact ⟨fun e => ⟨e.symm, e ▸ h⟩, fun e => e.1.symm⟩
    · simp only [h, if_false, reduceCtorEq, false_iff]
      exact fun e => h (e.1 ▸ e.2)

/-- A trap's target is a multiple of 4 (R38). -/
theorem vectorTarget_aligned {s : State} {v : Vec} {t : Addr} (h : vectorTarget s v = .next t) : t.toNat % 4 = 0 := by
  rcases vectorTarget_next.mp h with ⟨-, h⟩ | ⟨-, -, -, h⟩
  · subst h; cases v <;> decide
  · exact h

/-- Trap entry writes IR, sets SR.K and moves the pc to the vector's target, and changes nothing else. -/
theorem trapEnter_next {v : Vec} {ret : Addr} {s t : State} :
    trapEnter v ret s = .next t ↔
      ∃ target, vectorTarget s v = .next target ∧
        t = { s with ir := ret, sr := withStatusBit s.sr 0 true, pc := target } := by
  cases h : vectorTarget s v with
  | next a =>
    simp only [trapEnter, h, Host.Outcome.next.injEq]
    exact ⟨fun e => ⟨a, rfl, e.symm⟩, fun ⟨b, hb, e⟩ => by rw [hb, e]⟩
  | fault f => simp [trapEnter, h]
  | refused r => simp [trapEnter, h]

/-! Fetch and step -/

/-- A fetch answers the decoded instruction of the populated word at the pc. -/
theorem fetch_next {s : State} {i : Instr} :
    fetch s = .next i ↔ backs s.cfg s.pc 4 = true ∧ decode s.cfg (fetchWord s) = .ok i := by
  simp only [fetch, access_next]
  cases decode s.cfg (fetchWord s) <;> simp

/-- A step that answers a next state took an interrupt or executed the instruction it fetched. -/
theorem step_next {s t : State} (h : step s = .next t) :
    (s.takesInterrupt = true ∧ trapEnter .hardware s.pc s.sampled = .next t) ∨
    (s.takesInterrupt = false ∧ ∃ i, fetch s = .next i ∧ exec i s.sampled = .next t) := by
  unfold step at h
  split at h
  · exact .inl ⟨‹_›, h⟩
  · refine .inr ⟨by simpa using ‹¬ s.takesInterrupt = true›, ?_⟩
    cases hf : fetch s with
    | next i => rw [hf] at h; exact ⟨i, rfl, h⟩
    | fault f => rw [hf] at h; cases h
    | refused r => rw [hf] at h; cases h

/-! Bits of the status register -/

theorem getLsbD_bitMask (n m : Nat) (hm : m < 4) : (1#4 <<< n).getLsbD m = decide (m = n) := by
  rw [BitVec.getLsbD_shiftLeft, BitVec.getLsbD_one]
  by_cases hn : m = n
  · subst hn; simp [hm]
  · simp [hn, hm]; omega

/-- Setting or clearing bit `n` changes that bit alone; a number above 3 changes none. -/
theorem getLsbD_withStatusBit (sr : BitVec 4) (n : Nat) (b : Bool) (m : Nat) :
    (withStatusBit sr n b).getLsbD m = if m = n ∧ n < 4 then b else sr.getLsbD m := by
  by_cases hm : m < 4
  · have hmask := getLsbD_bitMask n m hm
    cases b
    · have : (withStatusBit sr n false).getLsbD m = (sr.getLsbD m && !(1#4 <<< n).getLsbD m) := by
        simp only [withStatusBit, Bool.false_eq_true, if_false, BitVec.getLsbD_and, BitVec.getLsbD_not, hm,
          decide_true, Bool.true_and]
      rw [this, hmask]
      by_cases hn : m = n
      · simp [hn, hn ▸ hm]
      · simp [hn]
    · have : (withStatusBit sr n true).getLsbD m = (sr.getLsbD m || (1#4 <<< n).getLsbD m) := by
        simp only [withStatusBit, if_true, BitVec.getLsbD_or]
      rw [this, hmask]
      by_cases hn : m = n
      · simp [hn, hn ▸ hm]
      · simp [hn]
  · rw [BitVec.getLsbD_of_ge _ _ (by omega), BitVec.getLsbD_of_ge sr m (by omega), if_neg (by omega)]

end Sys2Proof.Machine
end

