-- ==== Sys2Proof/Laws/Exec.lean ====
section
/-! SUPPORT. Everything an instruction can do where it completes, in one lemma: cite it instead of unfolding the
meanings. -/

namespace Sys2Proof.Machine

/-- The forms of a completed instruction: it writes at most one register and advances; it is a store; it is a jump, taken
or not; it is SSB or CSB; it is URT; it is SYSCAL. -/
theorem exec_next {i : Instr} {s t : State} (h : exec i s = .next t) :
    (∃ c v, t = (s.setReg c v).advance) ∨
    (isStore i = true ∧ ∃ a n v, t = (memWrite s a n v).advance) ∨
    (leavesSequence i = true ∧ i ≠ .syscal ∧ i ≠ .urt ∧ (t = s.advance ∨ ∃ a, t = s.jumpTo a)) ∨
    (∃ n b, (i = .ssb n ∨ i = .csb n) ∧
      t = (if s.srK ∧ 1 ≤ n.toNat ∧ n.toNat ≤ 3 then { s with sr := withStatusBit s.sr n.toNat b } else s).advance) ∨
    (i = .urt ∧ t = trapReturn s) ∨
    (i = .syscal ∧ trapEnter .software (s.pc + 4) s = .next t) := by
  cases i with
  | syscal => exact .inr (.inr (.inr (.inr (.inr ⟨rfl, h⟩))))
  | urt => exact .inr (.inr (.inr (.inr (.inl ⟨rfl, (Host.Outcome.next.inj h).symm⟩))))
  | ssb n => exact .inr (.inr (.inr (.inl ⟨n, true, .inl rfl, (Host.Outcome.next.inj h).symm⟩)))
  | csb n => exact .inr (.inr (.inr (.inl ⟨n, false, .inr rfl, (Host.Outcome.next.inj h).symm⟩)))
  | irj a imm | jmp imm =>
    exact .inr (.inr (.inl ⟨rfl, by simp, by simp, .inr ⟨_, (Host.Outcome.next.inj h).symm⟩⟩))
  | jeq a b imm | jlt a b imm | jslt a b imm | jsv a b imm | jne a b imm | jge a b imm | jsge a b imm | jnsv a b imm =>
    refine .inr (.inr (.inl ⟨rfl, by simp, by simp, ?_⟩))
    rcases condJump_next.mp h with ⟨-, h⟩ | ⟨-, h⟩
    · exact .inr ⟨_, h⟩
    · exact .inl h
  | stb b a imm | stw b a imm | std b a imm | stq b a imm =>
    exact .inr (.inl ⟨rfl, _, _, _, (store_next.mp h).2⟩)
  | ldb c a imm | ldw c a imm | ldd c a imm | ldq c a imm => exact .inl ⟨_, _, (load_next.mp h).2⟩
  | lui c imm | luiUU c imm | luiLU c imm => exact .inl ⟨_, _, (Host.Outcome.next.inj h).symm⟩
  | add c a b | sub c a b | and c a b | or c a b | xor c a b | shr c a b | asr c a b | shl c a b | asl c a b
  | cch c a b | bch c a b | mul c a b | div c a b | mod c a b => exact .inl ⟨_, _, aluReg_next.mp h⟩
  | addi c a imm | subi c a imm | andi c a imm | ori c a imm | xori c a imm | shri c a imm | asri c a imm
  | shli c a imm | asli c a imm | cchi c a imm | bchi c a imm | muli c a imm | divi c a imm | modi c a imm =>
    exact .inl ⟨_, _, aluRegImm_next.mp h⟩

end Sys2Proof.Machine
end

