-- ==== Sys2Proof/Laws/PerInstr.lean ====
section
/-! SUPPORT. A family of statements made per instruction: the encoder agrees with the row of `opcode_table.json`. The
masks and values below are the table's own numbers, which the encoder and the decoder do not use. -/

namespace Sys2Proof.Laws

/-- The mask and the value of an instruction's row of `opcode_table.json` (default `PB_LAYOUT`). -/
def tableRow : Instr → Insn × Insn
  | .syscal => (0xFFFFFFFF, 0x40000000)
  | .lui _ _ => (0xF8000000, 0x10000000)
  | .stb _ _ _ => (0xF801E000, 0x18000000)
  | .stw _ _ _ => (0xF801E000, 0x18002000)
  | .std _ _ _ => (0xF801E000, 0x18004000)
  | .ldb _ _ _ => (0xF801E000, 0x20000000)
  | .ldw _ _ _ => (0xF801E000, 0x20002000)
  | .ldd _ _ _ => (0xF801E000, 0x20004000)
  | .irj _ _ => (0xF8000000, 0x28000000)
  | .jmp _ => (0xF8000000, 0x30000000)
  | .jeq _ _ _ => (0xF801E000, 0x38000000)
  | .jlt _ _ _ => (0xF801E000, 0x38002000)
  | .jslt _ _ _ => (0xF801E000, 0x38004000)
  | .jsv _ _ _ => (0xF801E000, 0x38006000)
  | .jne _ _ _ => (0xF801E000, 0x38008000)
  | .jge _ _ _ => (0xF801E000, 0x3800A000)
  | .jsge _ _ _ => (0xF801E000, 0x3800C000)
  | .jnsv _ _ _ => (0xF801E000, 0x3800E000)
  | .add _ _ _ => (0xF801E0FF, 0x00000000)
  | .sub _ _ _ => (0xF801E0FF, 0x00002000)
  | .and _ _ _ => (0xF801E0FF, 0x00004000)
  | .or _ _ _ => (0xF801E0FF, 0x00006000)
  | .xor _ _ _ => (0xF801E0FF, 0x00008000)
  | .shr _ _ _ => (0xF801E0FF, 0x0000A000)
  | .asr _ _ _ => (0xF801E0FF, 0x0000C000)
  | .shl _ _ _ => (0xF801E0FF, 0x0000E000)
  | .asl _ _ _ => (0xF801E0FF, 0x00010000)
  | .cch _ _ _ => (0xF801E0FF, 0x00012000)
  | .bch _ _ _ => (0xF801E0FF, 0x00014000)
  | .addi _ _ _ => (0xF801E000, 0x08000000)
  | .subi _ _ _ => (0xF801E000, 0x08002000)
  | .andi _ _ _ => (0xF801E000, 0x08004000)
  | .ori _ _ _ => (0xF801E000, 0x08006000)
  | .xori _ _ _ => (0xF801E000, 0x08008000)
  | .shri _ _ _ => (0xF801E000, 0x0800A000)
  | .asri _ _ _ => (0xF801E000, 0x0800C000)
  | .shli _ _ _ => (0xF801E000, 0x0800E000)
  | .asli _ _ _ => (0xF801E000, 0x08010000)
  | .cchi _ _ _ => (0xF801E000, 0x08012000)
  | .bchi _ _ _ => (0xF801E000, 0x08014000)
  | .ssb _ => (0xF87FFFFF, 0x50000000)
  | .csb _ => (0xF87FFFFF, 0x50400000)
  | .urt => (0xFFFFFFFF, 0x48000000)
  | .stq _ _ _ => (0xF801E000, 0x18006000)
  | .ldq _ _ _ => (0xF801E000, 0x20006000)
  | .luiUU _ _ => (0xF8000000, 0x58000000)
  | .luiLU _ _ => (0xF8000000, 0x60000000)
  | .mul _ _ _ => (0xF801E0FF, 0x00016000)
  | .div _ _ _ => (0xF801E0FF, 0x00018000)
  | .mod _ _ _ => (0xF801E0FF, 0x0001A000)
  | .muli _ _ _ => (0xF801E000, 0x08016000)
  | .divi _ _ _ => (0xF801E000, 0x08018000)
  | .modi _ _ _ => (0xF801E000, 0x0801A000)

/-- The word the encoder builds matches its row of the table, whatever the operands. -/
def TableRow.Statement (i : Instr) : Prop :=
  ∀ c : Config, c.pbLayout = .packed → encode c i &&& (tableRow i).1 = (tableRow i).2

/-! One lemma per format: the mask keeps the fixed bits and drops the operands -/

theorem and_ones4 : ∀ x : BitVec 4, x &&& 0xF#4 = x := by decide
theorem and_ones5 : ∀ x : BitVec 5, x &&& 0x1F#5 = x := by decide

theorem mask_encRRR (op : BitVec 5) (fn : BitVec 4) (c a b : Reg) :
    encRRR op fn c a b &&& 0xF801E0FF = encRRR op fn .zr .zr .zr := by
  change ((op ++ c.field ++ a.field ++ fn ++ b.field ++ 0#8 : BitVec (5 + 5 + 5 + 4 + 5 + 8)) &&&
    (0x1F#5 ++ 0#5 ++ 0#5 ++ 0xF#4 ++ 0#5 ++ 0xFF#8)) = _
  simp only [BitVec.and_append, BitVec.and_zero, and_ones5, and_ones4]
  rfl
theorem mask_encRRI (op : BitVec 5) (fn : BitVec 4) (c a : Reg) (imm : BitVec 13) :
    encRRI op fn c a imm &&& 0xF801E000 = encRRI op fn .zr .zr 0 := by
  change ((op ++ c.field ++ a.field ++ fn ++ imm : BitVec (5 + 5 + 5 + 4 + 13)) &&&
    (0x1F#5 ++ 0#5 ++ 0#5 ++ 0xF#4 ++ 0#13)) = _
  simp only [BitVec.and_append, BitVec.and_zero, and_ones5, and_ones4]
  rfl
theorem mask_encRRI2 (op : BitVec 5) (fn : BitVec 4) (a b : Reg) (imm : BitVec 13) :
    encRRI2 op fn a b imm &&& 0xF801E000 = encRRI2 op fn .zr .zr 0 := by
  change ((op ++ imm.extractLsb' 8 5 ++ a.field ++ fn ++ b.field ++ imm.extractLsb' 0 8 :
    BitVec (5 + 5 + 5 + 4 + 5 + 8)) &&& (0x1F#5 ++ 0#5 ++ 0#5 ++ 0xF#4 ++ 0#5 ++ 0#8)) = _
  simp only [BitVec.and_append, BitVec.and_zero, and_ones5, and_ones4]
  rfl
theorem mask_encRI (op : BitVec 5) (c : Reg) (imm : BitVec 22) : encRI op c imm &&& 0xF8000000 = encRI op .zr 0 := by
  change ((op ++ c.field ++ imm : BitVec (5 + 5 + 22)) &&& (0x1F#5 ++ 0#5 ++ 0#22)) = _
  simp only [BitVec.and_append, BitVec.and_zero, and_ones5]
  rfl
theorem mask_encRI2 (op : BitVec 5) (a : Reg) (imm : BitVec 22) : encRI2 op a imm &&& 0xF8000000 = encRI2 op .zr 0 := by
  change ((op ++ imm.extractLsb' 17 5 ++ a.field ++ imm.extractLsb' 0 17 : BitVec (5 + 5 + 5 + 17)) &&&
    (0x1F#5 ++ 0#5 ++ 0#5 ++ 0#17)) = _
  simp only [BitVec.and_append, BitVec.and_zero, and_ones5]
  rfl
theorem mask_encI (op : BitVec 5) (imm : BitVec 27) : encI op imm &&& 0xF8000000 = encI op 0 := by
  change ((op ++ imm : BitVec (5 + 27)) &&& (0x1F#5 ++ 0#27)) = _
  simp only [BitVec.and_append, BitVec.and_zero, and_ones5]
  rfl
theorem mask_encPB (op n : BitVec 5) (f : BitVec 4) :
    encPB .packed op n f &&& 0xF87FFFFF = encPB .packed op 0 f := by
  have ones1 : ∀ x : BitVec 1, x &&& 1#1 = x := by decide
  change ((op ++ n.extractLsb' 0 4 ++ f.extractLsb' 0 1 ++ 0#22 : BitVec (5 + 4 + 1 + 22)) &&&
    (0x1F#5 ++ 0#4 ++ 1#1 ++ 0x3FFFFF#22)) = _
  simp only [BitVec.and_append, BitVec.and_zero, and_ones5, ones1]
  rfl

/-! One lemma per instruction -/

theorem TableRow.syscal : TableRow.Statement .syscal := fun _ _ =>
  show encN 0x08 &&& 0xFFFFFFFF = 0x40000000 by decide
theorem TableRow.lui (c : Reg) (imm : BitVec 22) : TableRow.Statement (.lui c imm) :=
  fun _ _ => (mask_encRI _ _ _).trans rfl
theorem TableRow.stb (b a : Reg) (imm : BitVec 13) : TableRow.Statement (.stb b a imm) :=
  fun _ _ => (mask_encRRI2 _ _ _ _ _).trans rfl
theorem TableRow.stw (b a : Reg) (imm : BitVec 13) : TableRow.Statement (.stw b a imm) :=
  fun _ _ => (mask_encRRI2 _ _ _ _ _).trans rfl
theorem TableRow.std (b a : Reg) (imm : BitVec 13) : TableRow.Statement (.std b a imm) :=
  fun _ _ => (mask_encRRI2 _ _ _ _ _).trans rfl
theorem TableRow.ldb (c a : Reg) (imm : BitVec 13) : TableRow.Statement (.ldb c a imm) :=
  fun _ _ => (mask_encRRI _ _ _ _ _).trans rfl
theorem TableRow.ldw (c a : Reg) (imm : BitVec 13) : TableRow.Statement (.ldw c a imm) :=
  fun _ _ => (mask_encRRI _ _ _ _ _).trans rfl
theorem TableRow.ldd (c a : Reg) (imm : BitVec 13) : TableRow.Statement (.ldd c a imm) :=
  fun _ _ => (mask_encRRI _ _ _ _ _).trans rfl
theorem TableRow.irj (a : Reg) (imm : BitVec 22) : TableRow.Statement (.irj a imm) :=
  fun _ _ => (mask_encRI2 _ _ _).trans rfl
theorem TableRow.jmp (imm : BitVec 27) : TableRow.Statement (.jmp imm) := fun _ _ => (mask_encI _ _).trans rfl
theorem TableRow.jeq (a b : Reg) (imm : BitVec 13) : TableRow.Statement (.jeq a b imm) :=
  fun _ _ => (mask_encRRI2 _ _ _ _ _).trans rfl
theorem TableRow.jlt (a b : Reg) (imm : BitVec 13) : TableRow.Statement (.jlt a b imm) :=
  fun _ _ => (mask_encRRI2 _ _ _ _ _).trans rfl
theorem TableRow.jslt (a b : Reg) (imm : BitVec 13) : TableRow.Statement (.jslt a b imm) :=
  fun _ _ => (mask_encRRI2 _ _ _ _ _).trans rfl
theorem TableRow.jsv (a b : Reg) (imm : BitVec 13) : TableRow.Statement (.jsv a b imm) :=
  fun _ _ => (mask_encRRI2 _ _ _ _ _).trans rfl
theorem TableRow.jne (a b : Reg) (imm : BitVec 13) : TableRow.Statement (.jne a b imm) :=
  fun _ _ => (mask_encRRI2 _ _ _ _ _).trans rfl
theorem TableRow.jge (a b : Reg) (imm : BitVec 13) : TableRow.Statement (.jge a b imm) :=
  fun _ _ => (mask_encRRI2 _ _ _ _ _).trans rfl
theorem TableRow.jsge (a b : Reg) (imm : BitVec 13) : TableRow.Statement (.jsge a b imm) :=
  fun _ _ => (mask_encRRI2 _ _ _ _ _).trans rfl
theorem TableRow.jnsv (a b : Reg) (imm : BitVec 13) : TableRow.Statement (.jnsv a b imm) :=
  fun _ _ => (mask_encRRI2 _ _ _ _ _).trans rfl
theorem TableRow.add (c a b : Reg) : TableRow.Statement (.add c a b) := fun _ _ => (mask_encRRR _ _ _ _ _).trans rfl
theorem TableRow.sub (c a b : Reg) : TableRow.Statement (.sub c a b) := fun _ _ => (mask_encRRR _ _ _ _ _).trans rfl
theorem TableRow.and (c a b : Reg) : TableRow.Statement (.and c a b) := fun _ _ => (mask_encRRR _ _ _ _ _).trans rfl
theorem TableRow.or (c a b : Reg) : TableRow.Statement (.or c a b) := fun _ _ => (mask_encRRR _ _ _ _ _).trans rfl
theorem TableRow.xor (c a b : Reg) : TableRow.Statement (.xor c a b) := fun _ _ => (mask_encRRR _ _ _ _ _).trans rfl
theorem TableRow.shr (c a b : Reg) : TableRow.Statement (.shr c a b) := fun _ _ => (mask_encRRR _ _ _ _ _).trans rfl
theorem TableRow.asr (c a b : Reg) : TableRow.Statement (.asr c a b) := fun _ _ => (mask_encRRR _ _ _ _ _).trans rfl
theorem TableRow.shl (c a b : Reg) : TableRow.Statement (.shl c a b) := fun _ _ => (mask_encRRR _ _ _ _ _).trans rfl
theorem TableRow.asl (c a b : Reg) : TableRow.Statement (.asl c a b) := fun _ _ => (mask_encRRR _ _ _ _ _).trans rfl
theorem TableRow.cch (c a b : Reg) : TableRow.Statement (.cch c a b) := fun _ _ => (mask_encRRR _ _ _ _ _).trans rfl
theorem TableRow.bch (c a b : Reg) : TableRow.Statement (.bch c a b) := fun _ _ => (mask_encRRR _ _ _ _ _).trans rfl
theorem TableRow.addi (c a : Reg) (imm : BitVec 13) : TableRow.Statement (.addi c a imm) :=
  fun _ _ => (mask_encRRI _ _ _ _ _).trans rfl
theorem TableRow.subi (c a : Reg) (imm : BitVec 13) : TableRow.Statement (.subi c a imm) :=
  fun _ _ => (mask_encRRI _ _ _ _ _).trans rfl
theorem TableRow.andi (c a : Reg) (imm : BitVec 13) : TableRow.Statement (.andi c a imm) :=
  fun _ _ => (mask_encRRI _ _ _ _ _).trans rfl
theorem TableRow.ori (c a : Reg) (imm : BitVec 13) : TableRow.Statement (.ori c a imm) :=
  fun _ _ => (mask_encRRI _ _ _ _ _).trans rfl
theorem TableRow.xori (c a : Reg) (imm : BitVec 13) : TableRow.Statement (.xori c a imm) :=
  fun _ _ => (mask_encRRI _ _ _ _ _).trans rfl
theorem TableRow.shri (c a : Reg) (imm : BitVec 13) : TableRow.Statement (.shri c a imm) :=
  fun _ _ => (mask_encRRI _ _ _ _ _).trans rfl
theorem TableRow.asri (c a : Reg) (imm : BitVec 13) : TableRow.Statement (.asri c a imm) :=
  fun _ _ => (mask_encRRI _ _ _ _ _).trans rfl
theorem TableRow.shli (c a : Reg) (imm : BitVec 13) : TableRow.Statement (.shli c a imm) :=
  fun _ _ => (mask_encRRI _ _ _ _ _).trans rfl
theorem TableRow.asli (c a : Reg) (imm : BitVec 13) : TableRow.Statement (.asli c a imm) :=
  fun _ _ => (mask_encRRI _ _ _ _ _).trans rfl
theorem TableRow.cchi (c a : Reg) (imm : BitVec 13) : TableRow.Statement (.cchi c a imm) :=
  fun _ _ => (mask_encRRI _ _ _ _ _).trans rfl
theorem TableRow.bchi (c a : Reg) (imm : BitVec 13) : TableRow.Statement (.bchi c a imm) :=
  fun _ _ => (mask_encRRI _ _ _ _ _).trans rfl
theorem TableRow.ssb (n : BitVec 5) : TableRow.Statement (.ssb n) := by
  intro cfg h
  rw [encode, h]
  exact (mask_encPB _ _ _).trans rfl
theorem TableRow.csb (n : BitVec 5) : TableRow.Statement (.csb n) := by
  intro cfg h
  rw [encode, h]
  exact (mask_encPB _ _ _).trans rfl
theorem TableRow.urt : TableRow.Statement .urt := fun _ _ =>
  show encN 0x09 &&& 0xFFFFFFFF = 0x48000000 by decide
theorem TableRow.stq (b a : Reg) (imm : BitVec 13) : TableRow.Statement (.stq b a imm) :=
  fun _ _ => (mask_encRRI2 _ _ _ _ _).trans rfl
theorem TableRow.ldq (c a : Reg) (imm : BitVec 13) : TableRow.Statement (.ldq c a imm) :=
  fun _ _ => (mask_encRRI _ _ _ _ _).trans rfl
theorem TableRow.luiUU (c : Reg) (imm : BitVec 22) : TableRow.Statement (.luiUU c imm) :=
  fun _ _ => (mask_encRI _ _ _).trans rfl
theorem TableRow.luiLU (c : Reg) (imm : BitVec 22) : TableRow.Statement (.luiLU c imm) :=
  fun _ _ => (mask_encRI _ _ _).trans rfl
theorem TableRow.mul (c a b : Reg) : TableRow.Statement (.mul c a b) := fun _ _ => (mask_encRRR _ _ _ _ _).trans rfl
theorem TableRow.div (c a b : Reg) : TableRow.Statement (.div c a b) := fun _ _ => (mask_encRRR _ _ _ _ _).trans rfl
theorem TableRow.mod (c a b : Reg) : TableRow.Statement (.mod c a b) := fun _ _ => (mask_encRRR _ _ _ _ _).trans rfl
theorem TableRow.muli (c a : Reg) (imm : BitVec 13) : TableRow.Statement (.muli c a imm) :=
  fun _ _ => (mask_encRRI _ _ _ _ _).trans rfl
theorem TableRow.divi (c a : Reg) (imm : BitVec 13) : TableRow.Statement (.divi c a imm) :=
  fun _ _ => (mask_encRRI _ _ _ _ _).trans rfl
theorem TableRow.modi (c a : Reg) (imm : BitVec 13) : TableRow.Statement (.modi c a imm) :=
  fun _ _ => (mask_encRRI _ _ _ _ _).trans rfl

end Sys2Proof.Laws
end

