-- ==== Sys2Proof/Tests/Slice0.lean ====
section
/-! SUPPORT. Tests of single steps and single words, and for each obligation with hypotheses a witness that meets them.
Expected values come from `95_test_vectors.md` (the part named) or from hand calculation with the rule named. -/

namespace Sys2Proof.Tests

open Sys2Proof.Machine Sys2Proof.Spec

/-! Small states -/

/-- The default parameters without the 64-bit extension, as the test vectors assume them. -/
def base : Config := { defaultConfig with hasQ64 := false }

/-- The base architecture alone (`SRM32`). -/
def bare : Config := { defaultConfig with hasQ64 := false, hasMulDiv := false }

/-- A configuration with only 16 bytes of memory populated. -/
def small : Config := { defaultConfig with populated := [⟨0, 16⟩] }

/-- The alternatives of the parameters that a value depends on. -/
def other : Config :=
  { base with
    endian := .big, vectorMode := .code, pbLayout := .spread, unusedBits := .ignored, aluImmExt := .sign, loadExt := .sign,
    shiftAmount := .lowBits, jumpIgnoredBits := 2, quadIgnoredBits := 3 }

/-- A state with a0 and a1 given and every other register zero. -/
def start (c : Config) (sr : BitVec 4) (pc : Addr) (a0 a1 : Nat) (mem : Memory) : State where
  cfg := c
  gpr := ((Vector.replicate 28 0).set 0 (BitVec.ofNat 64 a0)).set 1 (BitVec.ofNat 64 a1)
  pc := pc
  ir := 0x204
  sr := sr
  mem := mem
  irq := .held false

/-- The bytes 11 22 33 44 55 66 77 88 at 0x1000 (parts 2.3 and 2.4). -/
def bytes : Memory :=
  [(0x1000, 0x11), (0x1001, 0x22), (0x1002, 0x33), (0x1003, 0x44), (0x1004, 0x55), (0x1005, 0x66), (0x1006, 0x77),
    (0x1007, 0x88)]

/-- What `f` reads in the next state, if there is one. -/
def after {α : Type} (f : State → α) : Host.Outcome State Fault Refusal → Option α
  | .next t => some (f t)
  | .fault _ => none
  | .refused _ => none

/-- The refusal an outcome ends in, if it is one. -/
def refusal : Host.Outcome State Fault Refusal → Option Refusal
  | .refused r => some r
  | .next _ => none
  | .fault _ => none

/-- The fault an outcome ends in, if it is one. -/
def stuck : Host.Outcome State Fault Refusal → Option Fault
  | .fault f => some f
  | .next _ => none
  | .refused _ => none

/-- What the decoder answers, as plain data. -/
def decoded (c : Config) (w : Insn) : Option Instr :=
  match decode c w with
  | .ok i => some i
  | .error _ => none

/-- Each row is a0, a1 and the a2 expected after the instruction. -/
def gives (i : Instr) (rows : List (Nat × Nat × Nat)) : Bool :=
  rows.all fun r => after (·.reg .a2) (exec i (start base 1 0x100 r.1 r.2.1 [])) == some (BitVec.ofNat 64 r.2.2)

/-- Does the jump, standing at `pc`, lead to `target`? -/
def jumps (i : Instr) (pc : Addr) (a0 a1 : Nat) (target : Addr) : Bool :=
  after (·.pc) (exec i (start base 1 pc a0 a1 [])) == some target

/-- Each row is a0, a1 and whether the conditional jump of part 2.6 is taken (from 0x2000 by 16). -/
def taken (i : Instr) (rows : List (Nat × Nat × Bool)) : Bool :=
  rows.all fun r => jumps i 0x2000 r.1 r.2.1 (if r.2.2 then 0x2010 else 0x2004)

/-- The eight bytes at 0x1000 after a store of a1 = 0xAABBCCDD from a0 = 0x1000. -/
def stored (i : Instr) : Option (List Byte) :=
  after (fun t => t.mem.readBytes 0x1000 8) (exec i (start base 1 0x100 0x1000 0xAABBCCDD bytes))

/-- a2 after a load from a0 = 0x1000 over the bytes. -/
def loaded (i : Instr) : Option RegVal := after (·.reg .a2) (exec i (start base 1 0x100 0x1000 0 bytes))

/-! Well-formedness: each check refuses an ill-formed term -/

theorem test_wellFormed_extension_q64 :
    (Instr.ldq .a0 .a1 0).wellFormed base = false ∧ (Instr.ldq .a0 .a1 0).wellFormed defaultConfig = true := by decide
theorem test_wellFormed_extension_mulDiv :
    (Instr.mul .a0 .a1 .a2).wellFormed bare = false ∧ (Instr.mul .a0 .a1 .a2).wellFormed base = true := by decide
theorem test_wellFormed_status_bit_number :
    (Instr.ssb 16).wellFormed base = false ∧ (Instr.csb 31).wellFormed base = false ∧
    (Instr.ssb 15).wellFormed base = true ∧ (Instr.ssb 16).wellFormed other = true := by decide

/-! Decoding: words of part 2.1 -/

theorem test_decode_lui_stores :
    decoded base 0x13400001 = some (.lui .t0 1) ∧ decoded base 0x18020205 = some (.stb .a1 .a0 5) ∧
    decoded base 0x1FC202FF = some (.stb .a1 .a0 (BitVec.ofInt 13 (-1))) ∧
    decoded base 0x18022203 = some (.stw .a1 .a0 3) ∧
    decoded base 0x1FC242FA = some (.std .a1 .a0 (BitVec.ofInt 13 (-6))) := by decide
theorem test_decode_loads :
    decoded base 0x20C21FFF = some (.ldb .a2 .a0 (BitVec.ofInt 13 (-1))) ∧
    decoded base 0x20C22003 = some (.ldw .a2 .a0 3) ∧
    decoded base 0x20C25FFA = some (.ldd .a2 .a0 (BitVec.ofInt 13 (-6))) := by decide
theorem test_decode_jumps :
    decoded base 0x2FC3FFF0 = some (.irj .a0 (BitVec.ofInt 22 (-16))) ∧ decoded base 0x28380000 = some (.irj .rp 0) ∧
    decoded base 0x37FFFFF8 = some (.jmp (BitVec.ofInt 27 (-8))) ∧
    decoded base 0x3FC202F0 = some (.jeq .a0 .a1 (BitVec.ofInt 13 (-16))) ∧
    decoded base 0x38022210 = some (.jlt .a0 .a1 16) ∧ decoded base 0x38024210 = some (.jslt .a0 .a1 16) ∧
    decoded base 0x38026210 = some (.jsv .a0 .a1 16) ∧ decoded base 0x38028210 = some (.jne .a0 .a1 16) ∧
    decoded base 0x3802A210 = some (.jge .a0 .a1 16) ∧ decoded base 0x3802C210 = some (.jsge .a0 .a1 16) ∧
    decoded base 0x3802E210 = some (.jnsv .a0 .a1 16) := by decide
theorem test_decode_alu_register :
    decoded base 0x00C20200 = some (.add .a2 .a0 .a1) ∧ decoded base 0x00C22200 = some (.sub .a2 .a0 .a1) ∧
    decoded base 0x00C24200 = some (.and .a2 .a0 .a1) ∧ decoded base 0x00C26200 = some (.or .a2 .a0 .a1) ∧
    decoded base 0x00C28200 = some (.xor .a2 .a0 .a1) ∧ decoded base 0x00C2A200 = some (.shr .a2 .a0 .a1) ∧
    decoded base 0x00C2C200 = some (.asr .a2 .a0 .a1) ∧ decoded base 0x00C2E200 = some (.shl .a2 .a0 .a1) ∧
    decoded base 0x00C30200 = some (.asl .a2 .a0 .a1) ∧ decoded base 0x00C32200 = some (.cch .a2 .a0 .a1) ∧
    decoded base 0x00C34200 = some (.bch .a2 .a0 .a1) := by decide
theorem test_decode_alu_immediate :
    decoded base 0x08C20064 = some (.addi .a2 .a0 100) ∧ decoded base 0x08C22064 = some (.subi .a2 .a0 100) ∧
    decoded base 0x08C24064 = some (.andi .a2 .a0 100) ∧ decoded base 0x08C26064 = some (.ori .a2 .a0 100) ∧
    decoded base 0x08C28064 = some (.xori .a2 .a0 100) ∧ decoded base 0x08C2A064 = some (.shri .a2 .a0 100) ∧
    decoded base 0x08C2C064 = some (.asri .a2 .a0 100) ∧ decoded base 0x08C2E064 = some (.shli .a2 .a0 100) ∧
    decoded base 0x08C30064 = some (.asli .a2 .a0 100) ∧ decoded base 0x08C32064 = some (.cchi .a2 .a0 100) ∧
    decoded base 0x08C34064 = some (.bchi .a2 .a0 100) := by decide
theorem test_decode_system :
    decoded base 0x40000000 = some .syscal ∧ decoded base 0x48000000 = some .urt ∧
    decoded base 0x50800000 = some (.ssb 1) ∧ decoded base 0x50C00000 = some (.csb 1) ∧
    decoded base 0x57800000 = some (.ssb 15) ∧ decoded base 0x51C00000 = some (.csb 3) := by decide
theorem test_decode_extensions :
    decoded defaultConfig 0x18026208 = some (.stq .a1 .a0 8) ∧ decoded defaultConfig 0x20C26008 = some (.ldq .a2 .a0 8) ∧
    decoded defaultConfig 0x587FFFFF = some (.luiUU .a0 4194303) ∧
    decoded defaultConfig 0x607FFFFF = some (.luiLU .a0 4194303) ∧
    decoded base 0x00C36200 = some (.mul .a2 .a0 .a1) ∧ decoded base 0x00C38200 = some (.div .a2 .a0 .a1) ∧
    decoded base 0x00C3A200 = some (.mod .a2 .a0 .a1) ∧ decoded base 0x08C36064 = some (.muli .a2 .a0 100) ∧
    decoded base 0x08C38064 = some (.divi .a2 .a0 100) ∧ decoded base 0x08C3A064 = some (.modi .a2 .a0 100) := by decide
/-- The words part 2.1 says a model must refuse. -/
theorem test_decode_reserved :
    decoded base 0x68000000 = none ∧ decoded base 0xFFFFFFFF = none ∧ decoded base 0x0001C000 = none ∧
    decoded base 0x00C20201 = none ∧ decoded base 0x40000001 = none ∧ decoded base 0x50800001 = none ∧
    decoded base 0x18026208 = none ∧ decoded base 0x587FFFFF = none ∧ decoded bare 0x00C36200 = none ∧
    decoded base 0x38030210 = none ∧ decoded base 0x20C28000 = none := by decide
/-- R102's other layout: FN2 at [26:22], F1 at [16:13]; and R105's other treatment of unused bits. -/
theorem test_decode_other_layout :
    decoded other 0x50402000 = some (.csb 1) ∧ decoded other 0x50400000 = some (.ssb 1) ∧
    decoded other 0x50404000 = none ∧ decoded other 0x00C20201 = some (.add .a2 .a0 .a1) := by decide
/-- The encoder, on the same words. -/
theorem test_encode :
    encode base (.std .a1 .a0 (BitVec.ofInt 13 (-6))) = 0x1FC242FA ∧ encode base (.irj .a0 (BitVec.ofInt 22 (-16))) = 0x2FC3FFF0 ∧
    encode base (.csb 3) = 0x51C00000 ∧ encode other (.csb 1) = 0x50402000 := by decide
/-- The opcode table's numbering: bit 0 is the least significant bit of the 32-bit word. -/
theorem test_decodeTableWord :
    decodeTableWord 32 0x00C20200 = some (.add .a2 .a0 .a1) ∧ decodeTableWord 32 0x68000000 = none := by decide
/-- The expansions of part 1, as words. -/
theorem test_expansions :
    (Pseudo.ldi .a0 0x12345678).expand.map (encode base) = [0x10448D15, 0x08420278] ∧
    (Pseudo.jal 20).expand.map (encode base) = [0x0F3C0008, 0x30000014] ∧
    (Pseudo.psh .a0).expand.map (encode base) = [0x0EF62004, 0x18364100] ∧
    (Pseudo.pop .a0).expand.map (encode base) = [0x20764000, 0x0EF60004] ∧
    [Pseudo.inc .a0, .dec .a0, .mov .a0 .a1, .ret, .nop, .clr .a0, .wfi].map (fun p => p.expand.map (encode base)) =
      [[0x08420001], [0x08422001], [0x08440000], [0x28380000], [0x00000000], [0x00428100], [0x283C0000]] := by decide

/-! Upper immediate, loads and stores: parts 2.2, 2.3, 2.4, 2.11 -/

theorem test_lui : gives (.lui .a2 4194303) [(0, 0, 0xFFFFFC00)] = true ∧ gives (.lui .a2 1) [(0, 0, 0x400)] = true := by
  decide
theorem test_ldb :
    loaded (.ldb .a2 .a0 5) = some 0x66 ∧ loaded (.ldb .a2 .a0 7) = some 0x88 ∧
    after (·.reg .a2) (exec (.ldb .a2 .a0 4) (start base 1 0x100 0xFFFFFFFE 0 [(2, 0x5A)])) = some 0x5A := by decide
theorem test_ldw : loaded (.ldw .a2 .a0 3) = some 0x4433 ∧ loaded (.ldw .a2 .a0 5) = some 0x6655 := by decide
theorem test_ldd : loaded (.ldd .a2 .a0 3) = some 0x44332211 ∧ loaded (.ldd .a2 .a0 5) = some 0x88776655 := by decide
/-- R66 with `ENDIAN = big` and R135 with `LOAD_EXT = sign`, by hand. -/
theorem test_loads_other_parameters :
    after (·.reg .a2) (exec (.ldb .a2 .a0 7) (start other 1 0x100 0x1000 0 bytes)) = some 0xFFFFFF88 ∧
    after (·.reg .a2) (exec (.ldd .a2 .a0 0) (start other 1 0x100 0x1000 0 bytes)) = some 0x11223344 := by decide
theorem test_stb : stored (.stb .a1 .a0 3) = some [0x11, 0x22, 0x33, 0xDD, 0x55, 0x66, 0x77, 0x88] := by decide
theorem test_stw : stored (.stw .a1 .a0 3) = some [0x11, 0x22, 0xDD, 0xCC, 0x55, 0x66, 0x77, 0x88] := by decide
theorem test_std : stored (.std .a1 .a0 7) = some [0x11, 0x22, 0x33, 0x44, 0xDD, 0xCC, 0xBB, 0xAA] := by decide
theorem test_stq :
    after (fun t => t.mem.readBytes 0x1000 9)
      (exec (.stq .a1 .a0 8) (start defaultConfig 1 0x100 0x1000 0x0123456789ABCDEF [])) =
      some [0xEF, 0xCD, 0xAB, 0x89, 0x67, 0x45, 0x23, 0x01, 0x00] := by decide
theorem test_ldq :
    after (·.reg .a2) (exec (.ldq .a2 .a0 8) (start defaultConfig 1 0x100 0x1000 0 bytes)) = some 0x8877665544332211 := by
  decide
theorem test_luiUU :
    after (·.reg .a0) (exec (.luiUU .a0 4194303) (start defaultConfig 1 0x100 0x89ABCDEF 0 [])) =
      some 0xFFFFFC0089ABCDEF := by decide
theorem test_luiLU :
    after (·.reg .a0) (exec (.luiLU .a0 0) (start defaultConfig 9 0x100 0xFFFFFFFFFFFFFFFF 0 [])) =
      some 0xFFC00000FFFFFFFF := by decide

/-! Jumps: parts 2.5, 2.6, 2.11 -/

theorem test_jmp :
    jumps (.jmp 12) 0x100 0 0 0x108 = true ∧ jumps (.jmp (BitVec.ofInt 27 (-8))) 0x4 0 0 0xFFFFFFF8 = true ∧
    jumps (.jmp (BitVec.ofInt 27 (-67108864))) 0x100 0 0 0xFC000100 = true := by decide
theorem test_irj :
    jumps (.irj .a0 1) 0x100 0x2007 0 0x2008 = true ∧ jumps (.irj .a0 8) 0x100 0xFFFFFFFC 0 0 = true ∧
    jumps (.irj .a0 (BitVec.ofInt 22 (-2097152))) 0x100 0x1FFFFF 0 0xFFFFFFF8 = true := by decide
theorem test_jeq :
    taken (.jeq .a0 .a1 16) [(5, 5, true), (5, 7, false), (0x80000000, 0x80000000, true)] = true ∧
    jumps (.jeq .a0 .a1 (BitVec.ofInt 13 (-4096))) 0x2000 5 5 0x1000 = true := by decide
theorem test_jlt : taken (.jlt .a0 .a1 16) [(5, 7, true), (7, 5, false), (0, 0xFFFFFFFF, true), (0xFFFFFFFF, 0, false)] = true := by
  decide
theorem test_jslt :
    taken (.jslt .a0 .a1 16) [(5, 7, true), (0x80000000, 1, false), (0x7FFFFFFF, 0xFFFFFFFF, true)] = true := by decide
theorem test_jsv :
    taken (.jsv .a0 .a1 16) [(0x80000000, 1, true), (0x7FFFFFFF, 0xFFFFFFFF, true), (0xFFFFFFFF, 1, false)] = true := by decide
theorem test_jne : taken (.jne .a0 .a1 16) [(5, 5, false), (5, 7, true)] = true ∧ jumps (.jne .a0 .a1 16) 0x2004 1 2 0x2010 = true := by
  decide
theorem test_jge : taken (.jge .a0 .a1 16) [(5, 7, false), (7, 5, true), (5, 5, true)] = true := by decide
theorem test_jsge : taken (.jsge .a0 .a1 16) [(0x80000000, 1, true), (0xFFFFFFFF, 1, false), (5, 5, true)] = true := by decide
theorem test_jnsv : taken (.jnsv .a0 .a1 16) [(0x80000000, 0x7FFFFFFF, false), (5, 7, true)] = true := by decide
/-- Part 2.11: a comparison at the operating width. -/
theorem test_jeq_width :
    after (·.pc) (exec (.jeq .a0 .a1 16) (start defaultConfig 9 0x2000 0x100000000 0 [])) = some 0x2004 ∧
    after (·.pc) (exec (.jeq .a0 .a1 16) (start defaultConfig 1 0x2000 0x100000000 0 [])) = some 0x2010 := by decide

/-! The ALU: parts 2.7, 2.8, 2.10, 2.11 -/

theorem test_add :
    gives (.add .a2 .a0 .a1) [(0xFFFFFFFF, 1, 0), (0x7FFFFFFF, 1, 0x80000000), (0x12345678, 0x0F0F0F0F, 0x21436587)] = true := by
  decide
theorem test_sub : gives (.sub .a2 .a0 .a1) [(3, 5, 0xFFFFFFFE), (1, 0xFFFFFFFF, 2), (0x12345678, 0x0F0F0F0F, 0x03254769)] = true := by
  decide
theorem test_and : gives (.and .a2 .a0 .a1) [(5, 3, 1), (0x12345678, 0x0F0F0F0F, 0x02040608)] = true := by decide
theorem test_or : gives (.or .a2 .a0 .a1) [(5, 3, 7), (0x12345678, 0x0F0F0F0F, 0x1F3F5F7F)] = true := by decide
theorem test_xor : gives (.xor .a2 .a0 .a1) [(5, 3, 6), (0x12345678, 0x0F0F0F0F, 0x1D3B5977)] = true := by decide
theorem test_shr : gives (.shr .a2 .a0 .a1) [(0x80000010, 4, 0x08000001), (0x80000010, 0x20, 0), (0x80000010, 0xFFFFFFFF, 0)] = true := by
  decide
theorem test_asr :
    gives (.asr .a2 .a0 .a1) [(0x80000010, 4, 0xF8000001), (0x80000010, 0x21, 0xFFFFFFFF), (0x7FFFFFFF, 0x1F, 0)] = true := by
  decide
theorem test_shl : gives (.shl .a2 .a0 .a1) [(0x80000010, 1, 0x20), (1, 0x1F, 0x80000000), (1, 0x20, 0)] = true := by decide
theorem test_asl : gives (.asl .a2 .a0 .a1) [(0x80000010, 4, 0x100), (0x7FFFFFFF, 0x1F, 0x80000000), (1, 0x20, 0)] = true := by
  decide
theorem test_cch : gives (.cch .a2 .a0 .a1) [(0xFFFFFFFF, 1, 1), (0x7FFFFFFF, 1, 0), (0x80000000, 0x80000000, 1)] = true := by
  decide
theorem test_bch : gives (.bch .a2 .a0 .a1) [(3, 5, 1), (5, 3, 0), (5, 5, 0)] = true := by decide
theorem test_addi : gives (.addi .a2 .a0 8191) [(0x12345678, 0, 0x12347677), (0xFFFFE001, 0, 0)] = true := by decide
theorem test_subi : gives (.subi .a2 .a0 8191) [(0x12345678, 0, 0x12343679), (0xFFFFE000, 0, 0xFFFFC001)] = true := by decide
theorem test_andi : gives (.andi .a2 .a0 8191) [(0x12345678, 0, 0x1678), (0xFFFFE000, 0, 0)] = true := by decide
theorem test_ori : gives (.ori .a2 .a0 8191) [(0x12345678, 0, 0x12345FFF)] = true := by decide
theorem test_xori : gives (.xori .a2 .a0 8191) [(0x12345678, 0, 0x12344987)] = true := by decide
theorem test_shri : gives (.shri .a2 .a0 4) [(0x80000010, 0, 0x08000001)] = true ∧ gives (.shri .a2 .a0 8191) [(0x80000010, 0, 0)] = true := by
  decide
theorem test_asri :
    gives (.asri .a2 .a0 4) [(0x80000010, 0, 0xF8000001)] = true ∧ gives (.asri .a2 .a0 32) [(0x80000010, 0, 0xFFFFFFFF)] = true := by
  decide
theorem test_shli : gives (.shli .a2 .a0 31) [(1, 0, 0x80000000)] = true ∧ gives (.shli .a2 .a0 32) [(1, 0, 0)] = true := by decide
theorem test_asli : gives (.asli .a2 .a0 4) [(0x80000010, 0, 0x100)] = true ∧ gives (.asli .a2 .a0 32) [(1, 0, 0)] = true := by decide
theorem test_cchi : gives (.cchi .a2 .a0 8191) [(0xFFFFE001, 0, 1), (0xFFFFE000, 0, 0)] = true := by decide
theorem test_bchi : gives (.bchi .a2 .a0 100) [(99, 0, 1), (100, 0, 0)] = true := by decide
/-- R104 with `ALU_IMM_EXT = sign` (8191 is -1) and R171 with `SHIFT_AMOUNT = low_bits` (0x21 acts as 1), as parts 2.7 and
2.8 say. -/
theorem test_alu_other_parameters :
    after (·.reg .a2) (exec (.addi .a2 .a0 8191) (start other 1 0x100 5 0 [])) = some 4 ∧
    after (·.reg .a2) (exec (.shr .a2 .a0 .a1) (start other 1 0x100 0x80000010 0x21 [])) = some 0x40000008 := by decide
/-- Part 2.11: ADD and ASR at the two operating widths. -/
theorem test_alu_width :
    after (·.reg .a2) (exec (.add .a2 .a0 .a1) (start defaultConfig 9 0x100 0xFFFFFFFF 1 [])) = some 0x100000000 ∧
    after (·.reg .a2) (exec (.add .a2 .a0 .a1) (start defaultConfig 1 0x100 0xFFFFFFFF 1 [])) = some 0 ∧
    after (·.reg .a2) (exec (.asr .a2 .a0 .a1) (start defaultConfig 9 0x100 0x8000000000000000 63 [])) =
      some 0xFFFFFFFFFFFFFFFF := by decide
/-- R243, by hand: bits [63:32] of a 32-bit result under `Q0_UPPER` = sign and = preserve. -/
theorem test_alu_upper_half :
    after (·.reg .a0) (exec (.addi .a0 .a0 0) (start { defaultConfig with q0Upper := .sign } 1 0 0x180000000 0 [])) =
      some 0xFFFFFFFF80000000 ∧
    after (·.reg .a0) (exec (.addi .a0 .a0 0) (start { defaultConfig with q0Upper := .preserve } 1 0 0x180000000 0 [])) =
      some 0x180000000 := by decide
theorem test_mul : gives (.mul .a2 .a0 .a1) [(0xFFFFFFF9, 2, 0xFFFFFFF2), (0x10000, 0x10000, 0), (0x80000000, 0xFFFFFFFF, 0x80000000)] = true := by
  decide
theorem test_div :
    gives (.div .a2 .a0 .a1)
      [(0xFFFFFFF9, 2, 0xFFFFFFFD), (7, 0xFFFFFFFE, 0xFFFFFFFD), (0x80000000, 0xFFFFFFFF, 0x80000000), (6, 7, 0)] = true := by decide
theorem test_mod :
    gives (.mod .a2 .a0 .a1)
      [(0xFFFFFFF9, 2, 0xFFFFFFFF), (7, 0xFFFFFFFE, 1), (0x80000000, 0xFFFFFFFF, 0), (6, 7, 6)] = true := by decide
theorem test_muli : gives (.muli .a2 .a0 100) [(0xFFFFFFF9, 0, 0xFFFFFD44)] = true ∧ gives (.muli .a2 .a0 8191) [(0x80000000, 0, 0x80000000)] = true := by
  decide
theorem test_divi : gives (.divi .a2 .a0 100) [(0xFFFFFD44, 0, 0xFFFFFFF9), (250, 0, 2)] = true ∧ gives (.divi .a2 .a0 8191) [(0x80000000, 0, 0xFFFBFFE0)] = true := by
  decide
theorem test_modi : gives (.modi .a2 .a0 100) [(0xFFFFFFF9, 0, 0xFFFFFFF9), (250, 0, 50)] = true ∧ gives (.modi .a2 .a0 8191) [(0x80000000, 0, 0xFFFFFFE0)] = true := by
  decide
/-- Part 2.10: a division by zero completes with `DIV_ZERO` of the operation and the dividend. -/
theorem test_divide_by_zero :
    after (·.reg .a2) (exec (.div .a2 .a0 .a1) (start base 1 0x100 5 0 [])) =
      some (clip base ((Config.divZero 32 .div 5).setWidth 64)) ∧
    after (·.pc) (exec (.mod .a2 .a0 .a1) (start base 1 0x100 5 0 [])) = some 0x104 := ⟨rfl, rfl⟩
/-- Parts 2.7 and 2.9: r0 discards, r30 reads the instruction's own address, r29 and r31 read IR and SR, r29 cannot be
written. -/
theorem test_special_registers :
    after (fun t => (t.gpr, t.pc)) (exec (.add .zr .a0 .a1) (start base 1 0x100 1 2 [])) =
      some ((start base 1 0x100 1 2 []).gpr, 0x104) ∧
    after (·.reg .a2) (exec (.add .a2 .ip .zr) (start base 1 0x40 0 0 [])) = some 0x40 ∧
    after (·.reg .a0) (exec (.addi .a0 .sr 0) (start base 3 0x40 0 0 [])) = some 3 ∧
    after (·.reg .a0) (exec (.addi .a0 .ir 0) (start base 3 0x40 0 0 [])) = some 0x204 ∧
    after (·.ir) (exec (.addi .ir .zr 5) (start base 3 0x40 0 0 [])) = some 0x204 := by decide

/-! System instructions, traps and steps: part 2.9 -/

theorem test_syscal :
    after (fun t => (t.pc, t.ir, t.sr)) (exec .syscal (start base 0 0x200 0 0 [(1, 0x10)])) = some (0x1000, 0x204, 1) ∧
    after (fun t => (t.pc, t.ir, t.sr)) (exec .syscal (start base 3 0x200 0 0 [(0, 4), (1, 0x10)])) =
      some (0x1004, 0x204, 3) ∧
    refusal (exec .syscal (start base 1 0x200 0 0 [(0, 2), (1, 0x10)])) = some (.reservedVector 0x1002) := by decide
/-- R275 with `VECTOR_MODE = code`. -/
theorem test_syscal_code_vector :
    after (fun t => (t.pc, t.ir, t.sr)) (exec .syscal (start other 0 0x200 0 0 [(0, 2)])) = some (0, 0x204, 1) := by decide
theorem test_urt :
    after (fun t => (t.pc, t.sr)) (exec .urt (start base 3 0x1000 0 0 [])) = some (0x204, 2) ∧
    after (fun t => (t.pc, t.sr)) (exec .urt (start base 0 0x1000 0 0 [])) = some (0x204, 0) := by decide
theorem test_ssb :
    after (·.sr) (exec (.ssb 1) (start base 1 0 0 0 [])) = some 3 ∧ after (·.sr) (exec (.ssb 3) (start base 1 0 0 0 [])) = some 9 ∧
    after (·.sr) (exec (.ssb 1) (start base 0 0 0 0 [])) = some 0 ∧ after (·.sr) (exec (.ssb 0) (start base 0 0 0 0 [])) = some 0 ∧
    after (·.sr) (exec (.ssb 4) (start base 1 0 0 0 [])) = some 1 := by decide
theorem test_csb :
    after (·.sr) (exec (.csb 1) (start base 3 0 0 0 [])) = some 1 ∧ after (·.sr) (exec (.csb 1) (start base 2 0 0 0 [])) = some 2 ∧
    after (·.sr) (exec (.csb 0) (start base 1 0 0 0 [])) = some 1 := by decide

/-- A state with an interrupt requested at the coming boundary and the hardware vector at 0x2000. -/
def requested (sr : BitVec 4) : State := { start base sr 0x300 0 0 [(5, 0x20)] with irq := .value true (.value false (.held false)) }

theorem test_interrupt :
    after (fun t => (t.pc, t.ir, t.sr, t.irq.now)) (step (requested 3)) = some (0x2000, 0x300, 3, false) ∧
    after (fun t => (t.pc, t.ir, t.sr)) (step (requested 2)) = some (0x2000, 0x300, 3) ∧
    after (fun t => (t.pc, t.ir, t.irq.now)) (step (requested 1)) = some (0x304, 0x204, false) := by decide
/-- R43, and the first step of program P4 of part 3: the word placed at the reset location runs. -/
theorem test_reset_withFetchWord :
    State.reset.pc = 8 ∧ State.reset.sr = 1 ∧ State.reset.mem.wf = true ∧
    after (fun t => (t.reg .a0, t.pc)) (step (State.reset.withFetchWord 32 0x08400015)) = some (21, 0xC) := by decide
/-- Step of an unpopulated or reserved fetch. -/
theorem test_stops :
    stuck (step (start small 1 0x10 0 0 [])) = some (.unpopulated 0x10) ∧
    stuck (exec (.ldd .a0 .a0 14) (start { small with populated := [⟨0, 14⟩] } 1 0 0 0 [])) = some (.unpopulated 0xC) ∧
    refusal (step (State.reset.withFetchWord 32 0x68000000)) = some (.reservedEncoding (.unassignedOpcode 0xD)) := by decide

/-! Witnesses: for each obligation with hypotheses, states and operands that meet them, each clause at a boundary value -/

theorem exists_next {o : Host.Outcome State Fault Refusal} {p : State → Prop} [DecidablePred p]
    (h : after (fun t => decide (p t)) o = some true) : ∃ t, o = .next t ∧ p t := by
  cases o <;> simp_all [after]

theorem agree_on_bits {n : Nat} {a b : BitVec 4} (h : ∀ m < 4, m ≠ n → b.getLsbD m = a.getLsbD m) (m : Nat) (hm : m ≠ n) :
    b.getLsbD m = a.getLsbD m := by
  by_cases hlt : m < 4
  · exact h m hlt hm
  · rw [BitVec.getLsbD_of_ge _ _ (by omega), BitVec.getLsbD_of_ge _ _ (by omega)]

/-- The state `start c sr 0x100 a0 a1 mem` with the instruction placed at its pc. -/
def placed (c : Config) (sr : BitVec 4) (a0 a1 : Nat) (mem : Memory) (i : Instr) : State :=
  (start c sr 0x100 a0 a1 mem).withFetchWord 32 (encode c i).toNat

/-- A SYSCAL at 0x100 whose software vector is 0x1000, with a URT there. -/
def calling : State := placed base 1 0 0 [(1, 0x10), (0x1003, 0x48)] .syscal

theorem test_hyp_StatusRegisterRead : 0 < 4 ∧ 3 < 4 ∧ 4 ≤ 4 := by decide
theorem test_hyp_ReadOnlyRegisters :
    Reg.zr.writable = false ∧ Reg.ir.writable = false ∧ Reg.ip.writable = false ∧ Reg.sr.writable = false := by decide
theorem test_hyp_OnlyTrapsWriteInterruptPointer :
    (∃ t, step calling = .next t ∧ t.ir ≠ calling.ir) ∧ (∃ t, step (requested 3) = .next t ∧ t.ir ≠ (requested 3).ir) ∧
    ∃ t, exec .urt calling = .next t ∧ Instr.urt ≠ .syscal :=
  ⟨exists_next (by decide), exists_next (by decide), exists_next (by decide)⟩
theorem test_hyp_RegistersDoNotAlias :
    Reg.a0 ≠ .rp ∧ (start defaultConfig 1 0 0 0 []).cfg.hasQ64 = true ∧ (start base 1 0 0xFFFFFFFF 0 []).cfg.hasQ64 = false := by
  decide
theorem test_hyp_StepKeepsInvariant :
    (placed base 1 0xFFFFFFFF 0 bytes (.add .a0 .a0 .a0)).Inv ∧
    ∃ t, step (placed base 1 0xFFFFFFFF 0 bytes (.add .a0 .a0 .a0)) = .next t ∧ t.pc = 0x104 :=
  ⟨⟨rfl, rfl, rfl, by decide, by decide⟩, exists_next (by decide)⟩
theorem test_hyp_StepKeepsConfiguration : ∃ t, step (requested 3) = .next t ∧ t.irq = .value false (.held false) := exists_next (by decide)
theorem test_hyp_DecodeEncodeRoundTrip :
    (Instr.ssb 15).wellFormed base = true ∧ (Instr.ssb 31).wellFormed other = true ∧
    (Instr.ldq .a0 .a1 8191).wellFormed defaultConfig = true := by decide
theorem test_hyp_EncodeDecodeRoundTrip : base.unusedBits = .mustBeZero ∧ decode base 0x57800000 = .ok (.ssb 15) := ⟨rfl, rfl⟩
/-- Each clause at the lowest word of its range, then a step that fetches a reserved word. -/
theorem test_hyp_ReservedEncodingsRefused :
    0x68000000 / 2 ^ 27 = 0x0D ∧ 0x0001C000 / 2 ^ 13 % 2 ^ 4 = 0xE ∧ 0x20C28000 / 2 ^ 13 % 2 ^ 4 = 0x4 ∧
    0x38030210 / 2 ^ 13 % 2 ^ 4 = 0x8 ∧ (bare.hasMulDiv = false ∧ 0x00C36200 / 2 ^ 13 % 2 ^ 4 = 0xB) ∧
    (base.hasQ64 = false ∧ 0x18026208 / 2 ^ 13 % 2 ^ 4 = 0x3 ∧ 0x58000000 / 2 ^ 27 = 0x0B) ∧
    (base.unusedBits = .mustBeZero ∧ 0x00C20201 % 2 ^ 8 = 1 ∧ 0x40000001 % 2 ^ 27 = 1 ∧ base.pbLayout = .packed ∧
      0x50800001 % 2 ^ 22 = 1) ∧
    (NoInterrupt (State.reset.withFetchWord 32 0x68000000) ∧
      backs (State.reset.withFetchWord 32 0x68000000).cfg (State.reset.withFetchWord 32 0x68000000).pc 4 = true ∧
      decode (State.reset.withFetchWord 32 0x68000000).cfg (fetchWord (State.reset.withFetchWord 32 0x68000000)) =
        .error (.unassignedOpcode 0xD)) := by
  refine ⟨rfl, rfl, rfl, rfl, ⟨rfl, rfl⟩, ⟨rfl, rfl, rfl⟩, ⟨rfl, rfl, rfl, rfl, rfl⟩, .inl rfl, rfl, rfl⟩
theorem test_hyp_MemReadAssemblesBytes : 0 < 1 ∧ 7 < 8 := by decide
theorem test_hyp_ReadAfterWrite :
    bytes.wf = true ∧ 8 ≤ 8 ∧
    ∀ i < 8, ∀ j < 8, (0x1000 : Addr) + BitVec.ofNat 32 i ≠ 0x1008 + BitVec.ofNat 32 j := by decide
/-- The highest address of each size. -/
theorem test_hyp_StoresWriteTheirBytes :
    let s := start base 1 0x100 0xFFFFFFFF 1 bytes
    s.mem.wf = true ∧ (align (effAddr s .a0 0) 0 = 0xFFFFFFFF ∧ backs s.cfg 0xFFFFFFFF 1 = true) ∧
    (align (effAddr s .a0 0) 1 = 0xFFFFFFFE ∧ backs s.cfg 0xFFFFFFFE 2 = true) ∧
    (align (effAddr s .a0 0) 2 = 0xFFFFFFFC ∧ backs s.cfg 0xFFFFFFFC 4 = true) := by decide
theorem test_hyp_LoadsReadTheirBytes :
    let s := start base 1 0x100 0x1007 1 bytes
    (align (effAddr s .a0 0) 0 = 0x1007 ∧ backs s.cfg 0x1007 1 = true) ∧
    (align (effAddr s .a0 0) 1 = 0x1006 ∧ backs s.cfg 0x1006 2 = true) ∧
    (align (effAddr s .a0 0) 2 = 0x1004 ∧ backs s.cfg 0x1004 4 = true) := by decide
theorem test_hyp_QuadWordAccesses :
    let s := start defaultConfig 1 0x100 0x100F 1 bytes
    s.mem.wf = true ∧ s.cfg.hasQ64 = true ∧ align (effAddr s .a0 0) s.cfg.quadIgnoredBits = 0x1000 ∧
    backs s.cfg 0x1000 8 = true := by decide
/-- The first access of each size that is not populated; a fetch; a vector. -/
theorem test_hyp_UnpopulatedAccessesFault :
    let s := start small 1 0x10 0x10 0 []
    (align (effAddr s .a0 0) 0 = 0x10 ∧ backs s.cfg 0x10 1 = false) ∧
    (align (effAddr s .a0 1) 1 = 0x10 ∧ backs s.cfg 0x10 2 = false) ∧
    (align (effAddr s .a0 3) 2 = 0x10 ∧ backs s.cfg 0x10 4 = false) ∧
    (align (effAddr s .a0 15) s.cfg.quadIgnoredBits = 0x10 ∧ backs s.cfg 0x10 8 = false) ∧
    (s.sr.getLsbD 1 = false ∧ backs s.cfg s.pc 4 = false) ∧
    (small.vectorMode = .pointer ∧ backs { small with populated := [⟨1, 16⟩] } 0 4 = false) ∧
    let u : State := { start { small with populated := [⟨0, 7⟩] } 2 0x10 0 0 [] with irq := .held true }
    u.sr.getLsbD 1 = true ∧ u.irq.now = true ∧ u.cfg.vectorMode = .pointer ∧ backs u.cfg 4 4 = false := by decide
theorem test_hyp_StoreIsVisibleToFetch :
    let s := start base 1 0x100 0x107 0x48000000 []
    s.mem.wf = true ∧ align (effAddr s .a0 0) 2 = s.pc + 4 ∧ ∃ t, exec (.std .a1 .a0 0) s = .next t ∧ t.pc = 0x104 :=
  ⟨rfl, rfl, exists_next (by decide)⟩
theorem test_hyp_LoadUpperImmediateHighHalves : (start defaultConfig 1 0 0 0 []).cfg.hasQ64 = true := by decide
theorem test_hyp_SubtractionConditions :
    0 < 1 ∧ subOverflow 32 0x80000000 1 = true ∧ subOverflow 32 5 7 = false ∧ subOverflow 1 1 0 = false := by decide
/-- With an overflow (the corner case of R158) and without one. -/
theorem test_hyp_ConditionalJumpsInBase :
    (start base 1 0 0x80000000 1 []).cfg.hasQ64 = false ∧ overflows 32 0x80000000 1 ∧ ¬ overflows 32 5 7 :=
  ⟨rfl, .inl (by decide), by unfold overflows; decide⟩
theorem test_hyp_ConditionalJumpsFollowOperatingWidth :
    (start defaultConfig 9 0 0x100000000 0 []).cfg.hasQ64 = true ∧ (start defaultConfig 9 0 0 0 []).sr.getLsbD 3 = true ∧
    (start defaultConfig 1 0 0 0 []).cfg.hasQ64 = true ∧ (start defaultConfig 1 0 0 0 []).sr.getLsbD 3 = false := by decide
theorem test_hyp_NoJumpReachesFourModuloEight :
    (requested 1).cfg.jumpIgnoredBits = 3 ∧ ∃ t, step (requested 1) = .next t ∧ t.pc.toNat % 8 ≠ 0 :=
  ⟨rfl, exists_next (by decide)⟩
theorem test_hyp_RegisterArithmeticInBase : (start base 1 0 0xFFFFFFFF 1 []).cfg.hasQ64 = false := by decide
theorem test_hyp_RegisterArithmeticFollowsOperatingWidth :
    (start defaultConfig 9 0 0xFFFFFFFFFFFFFFFF 1 []).cfg.hasQ64 = true := by decide
theorem test_hyp_DivisionAndModulo :
    uval (start base 1 0 0x80000000 0xFFFFFFFF []) .a1 ≠ 0 ∧ uimm (start base 1 0 0x80000000 0 []) 8191 ≠ 0 := by decide
theorem test_hyp_DivisionByZeroCompletes :
    uval (start base 1 0 5 0 []) .a1 = 0 ∧ uimm (start base 1 0 5 0 []) 0 = 0 := by decide
theorem test_hyp_QuotientAndRemainderRebuildDividend : 0 < 32 ∧ (0xFFFFFFFF : BitVec 32) ≠ 0 ∧ 0 < 1 ∧ (1 : BitVec 1) ≠ 0 := by
  decide
theorem test_hyp_SetAndClearStatusBit : (start base 1 0 0 0 []).cfg.pbLayout = .packed ∧ (15 : BitVec 5).toNat < 16 := by
  decide
theorem test_hyp_SystemCallEntersHandler :
    TrapTarget calling .software 0x1000 ∧ TrapTarget (start other 0 0x200 0 0 []) .software 0 :=
  ⟨.inr ⟨rfl, rfl, rfl, rfl⟩, .inl ⟨rfl, rfl⟩⟩
theorem test_hyp_InterruptEntersHandler :
    (requested 2).sr.getLsbD 1 = true ∧ (requested 2).irq.now = true ∧ TrapTarget (requested 2) .hardware 0x2000 :=
  ⟨rfl, rfl, .inr ⟨rfl, rfl, rfl, rfl⟩⟩
theorem test_hyp_MisalignedVectorRefused :
    let s : State := { start base 2 0x300 0 0 [(0, 1), (4, 2)] with irq := .held true }
    s.cfg.vectorMode = .pointer ∧ (backs s.cfg 0 4 = true ∧ memRead s 0 4 % 4 ≠ 0) ∧
    (s.sr.getLsbD 1 = true ∧ s.irq.now = true ∧ backs s.cfg 4 4 = true ∧ memRead s 4 4 % 4 ≠ 0) := by decide
theorem test_hyp_StepRunsFetchedInstruction :
    NoInterrupt calling ∧ Fetches calling .syscal ∧ NoInterrupt (requested 1) ∧ Fetches (requested 1) (.add .zr .zr .zr) :=
  ⟨.inl rfl, ⟨rfl, rfl⟩, .inl rfl, rfl, rfl⟩
theorem test_hyp_KernelBitEventsAndEffect :
    (∃ t, step calling = .next t ∧ t.sr = 1) ∧ IgnoresSr (.jeq .a0 .a1 16) ∧
    AgreeBut 0 (start base 0 0 0 0 []) (start base 1 0 0 0 []) :=
  ⟨exists_next (by decide), ⟨by decide, rfl⟩, agree_on_bits (by decide), rfl⟩
theorem test_hyp_StatusBitsWithoutEffect :
    (start base 1 0 0 0 []).cfg.hasQ64 = false ∧ IgnoresSr (.jeq .a0 .a1 16) ∧
    AgreeBut 1 (start base 1 0 0 0 []) (start base 3 0 0 0 []) ∧ AgreeBut 2 (start base 1 0 0 0 []) (start base 5 0 0 0 []) ∧
    AgreeBut 3 (start base 1 0 0 0 []) (start base 9 0 0 0 []) :=
  ⟨rfl, ⟨by decide, rfl⟩, ⟨agree_on_bits (by decide), rfl⟩, ⟨agree_on_bits (by decide), rfl⟩, agree_on_bits (by decide), rfl⟩
theorem test_hyp_OnlyKernelChangesStatusBits :
    (∃ t, step (placed base 1 0 0 [] (.ssb 1)) = .next t ∧ t.sr.getLsbD 1 ≠ (placed base 1 0 0 [] (.ssb 1)).sr.getLsbD 1) ∧
    (start base 2 0 0 0 []).sr.getLsbD 0 = false ∧ ∃ t, exec (.csb 1) (start base 2 0 0 0 []) = .next t ∧ t.pc = 4 :=
  ⟨exists_next (by decide), rfl, exists_next (by decide)⟩
theorem test_hyp_SequentialInstructionsAdvance :
    leavesSequence (.ldb .a0 .a1 0) = false ∧ ∃ t, exec (.ldb .a0 .a1 0) State.reset = .next t ∧ t.pc = 0xC :=
  ⟨rfl, exists_next (by decide)⟩
theorem test_hyp_OnlyStoresWriteMemory :
    ∃ t, step (placed base 1 0xFFFFFFFF 7 [] (.stb .a1 .a0 0)) = .next t ∧
      t.mem ≠ (placed base 1 0xFFFFFFFF 7 [] (.stb .a1 .a0 0)).mem := exists_next (by decide)
theorem test_hyp_StopsOnlyForStatedReasons :
    step (start small 1 0x10 0 0 []) = .fault (.unpopulated 0x10) ∧
    step (State.reset.withFetchWord 32 0x68000000) = .refused (.reservedEncoding (.unassignedOpcode 0xD)) ∧
    step (placed base 1 0 0 [(0, 2)] .syscal) = .refused (.reservedVector 2) := ⟨rfl, rfl, rfl⟩
theorem test_hyp_FirstEntryIntoUserMode :
    NoInterrupt calling ∧ NoInterrupt { calling with irq := calling.irq.later } ∧ Fetches calling .syscal ∧
    TrapTarget calling .software 0x1000 ∧ Fetches { calling with pc := 0x1000 } .urt :=
  ⟨.inl rfl, .inl rfl, ⟨rfl, rfl⟩, .inr ⟨rfl, rfl, rfl, rfl⟩, rfl, rfl⟩
theorem test_hyp_InterruptThenReturnResumes :
    (requested 3).takesInterrupt = true ∧ ∃ t, step (requested 3) = .next t ∧ t.pc = 0x2000 :=
  ⟨rfl, exists_next (by decide)⟩
/-- A request held for ever; one withdrawn at the boundary after entry, with a NOP at the handler. -/
theorem test_hyp_HeldRequestReentersHandler :
    let s : State := { requested 3 with irq := .held true }
    (s.sr.getLsbD 1 = true ∧ TrapTarget s .hardware 0x2000 ∧ ∀ n, ∀ k ≤ n, s.irq.after k = true) ∧
    (Fetches { requested 3 with pc := 0x2000 } (.add .zr .zr .zr) ∧ (requested 3).irq.after 0 = true ∧
      (requested 3).irq.after 1 = false) :=
  ⟨⟨rfl, .inr ⟨rfl, rfl, rfl, rfl⟩, fun _ k _ => IrqInput.after_held true k⟩, ⟨rfl, rfl⟩, rfl, rfl⟩
theorem test_hyp_EndedRunStaysEnded :
    let s := placed base 1 0 0 [] (.jmp 0)
    let t : State := { placed base 3 0 0 [] (.jmp 0) with irq := .held false }
    (s.cfg.wf = true ∧ backs s.cfg s.pc 4 = true ∧ s.ended) ∧ (t.cfg.wf = true ∧ backs t.cfg t.pc 4 = true ∧ t.ended) :=
  ⟨⟨rfl, rfl, rfl, rfl, .inl rfl⟩, rfl, rfl, rfl, rfl, .inr fun n => IrqInput.after_held false n⟩
theorem test_hyp_Expansions : (start base 1 0x100 0xFFFFFFFF 0 []).cfg.hasQ64 = false := by decide
theorem test_hyp_PushThenPop :
    let s := start base 1 0x100 7 0 bytes
    s.cfg.hasQ64 = false ∧ s.mem.wf = true ∧ Reg.a0 ≠ .sp ∧ Reg.a1 ≠ .sp ∧ Reg.a0 ≠ .ip ∧
    align (BitVec.ofNat 32 (low s .sp + 2 ^ 32 - 4)) 2 = 0xFFFFFFFC ∧ backs s.cfg 0xFFFFFFFC 4 = true := by decide
/-- A call at a multiple of 8 and one at 4 modulo 8, each followed by its return. -/
theorem test_hyp_CallReturnAddress :
    (start base 1 0x100 0 0 []).cfg.hasQ64 = false ∧ (start base 1 0x100 0 0 []).cfg.jumpIgnoredBits = 3 ∧
    (∃ t, execAll (Pseudo.jal 20).expand (start base 1 0x100 0 0 []) = .next t ∧
      after (·.pc) (execAll Pseudo.ret.expand t) = some 0x108) ∧
    ∃ t, execAll (Pseudo.jal 20).expand (start base 1 0x104 0 0 []) = .next t ∧
      after (·.pc) (execAll Pseudo.ret.expand t) = some 0x108 :=
  ⟨rfl, rfl, exists_next (by decide), exists_next (by decide)⟩
theorem test_hyp_SixtyFourBitConstant : (start defaultConfig 9 0 0 0 []).cfg.hasQ64 = true := by decide
theorem test_hyp_MultiWordAddition : (start base 1 0 0xFFFFFFFF 1 []).cfg.hasQ64 = false := by decide

end Sys2Proof.Tests
end

