-- ==== Sys2Proof/Proofs/Scope.lean ====
section
/-! SUPPORT. The family `00_scope.md`: the two fields of the model's own (the parameters and the interrupt input) over a
step, and the step as the meaning of the fetched instruction. -/

namespace Sys2Proof.Machine

open Sys2Proof.Spec

/-! The parameters and the interrupt input -/

theorem trapEnter_keeps_cfg_irq {v : Vec} {ret : Addr} {s t : State} (h : trapEnter v ret s = .next t) :
    t.cfg = s.cfg ∧ t.irq = s.irq := by
  obtain ⟨target, -, rfl⟩ := trapEnter_next.mp h
  exact ⟨rfl, rfl⟩

/-- The interrupt input moves on at the boundary, in `State.sampled`, and never within an instruction. -/
theorem exec_keeps_cfg_irq {i : Instr} {s t : State} (h : exec i s = .next t) : t.cfg = s.cfg ∧ t.irq = s.irq := by
  rcases exec_next h with ⟨c, v, rfl⟩ | ⟨-, a, n, v, rfl⟩ | ⟨-, -, -, hjump⟩ | ⟨n, b, -, rfl⟩ | ⟨-, rfl⟩ | ⟨-, htrap⟩
  · simp
  · simp
  · rcases hjump with rfl | ⟨a, rfl⟩ <;> simp
  · split <;> simp
  · simp
  · exact trapEnter_keeps_cfg_irq htrap

/-! The step where no interrupt is taken -/

theorem takesInterrupt_eq_false_iff {s : State} : s.takesInterrupt = false ↔ NoInterrupt s := by
  simp only [State.takesInterrupt, State.srI, NoInterrupt, Bool.and_eq_false_iff]

theorem step_of_fetch {s : State} {i : Instr} (hint : s.takesInterrupt = false) (hfetch : fetch s = .next i) :
    step s = exec i s.sampled := by
  simp [step, hint, hfetch]

end Sys2Proof.Machine

namespace Sys2Proof.Proofs

open Sys2Proof.Machine

/-- Settles O9: trap entry and every instruction keep both fields of the sampled state the step hands them. -/
theorem stepKeepsConfiguration : Obligations.StepKeepsConfiguration := by
  intro s t h
  rcases step_next h with ⟨-, htrap⟩ | ⟨-, i, -, hexec⟩
  · simpa using trapEnter_keeps_cfg_irq htrap
  · simpa using exec_keeps_cfg_irq hexec

/-- Settles O43: its premises are, as `↔`s, an interrupt not taken and a fetch that answers `i`. -/
theorem stepRunsFetchedInstruction : Obligations.StepRunsFetchedInstruction := fun _ _ hint hfetch =>
  step_of_fetch (takesInterrupt_eq_false_iff.mpr hint) (fetch_next.mpr hfetch)

end Sys2Proof.Proofs
end

/-! SUPPORT. The family `10_state.md`: what a register reads after a write, which instructions write IR, SR and the pc, the
invariant over each operation on the state, and the simulation of states that differ in one bit of SR. -/

namespace Sys2Proof.Machine

open Sys2Proof.Spec

/-! Registers: a read after a write -/

theorem State.reg_setReg_ne (s : State) {r r' : Reg} (v : RegVal) (h : r ≠ r') : (s.setReg r v).reg r' = s.reg r' := by
  cases r' with
  | gpr k => exact State.setReg_gpr_ne s v h
  | _ => simp

theorem State.reg_setReg_same (s : State) (k : Fin 28) (v : RegVal) :
    (s.setReg (.gpr k) v).reg (.gpr k) = clip s.cfg v :=
  State.setReg_gpr_same s k v

theorem clip_of_q64 {c : Config} (h : c.hasQ64 = true) (v : RegVal) : clip c v = v := if_pos h

theorem toNat_clip_of_base {c : Config} (h : c.hasQ64 = false) (v : RegVal) : (clip c v).toNat = v.toNat % 2 ^ 32 := by
  rw [clip, if_neg (by simp [h]), BitVec.toNat_setWidth_of_le (by decide), BitVec.toNat_setWidth]

/-- The low half of an ALU instruction's 32-bit result is the same under every `Q0_UPPER` (R243). -/
theorem setWidth_fillUpper (m : Q0Upper) (old : RegVal) (r : BitVec 32) : (fillUpper m old r).setWidth 32 = r := by
  cases m with
  | zero => exact BitVec.setWidth_setWidth_of_le r (by decide)
  | sign =>
    refine BitVec.eq_of_getLsbD_eq fun j hj => ?_
    have hj64 : j < 64 := by omega
    simp only [fillUpper, BitVec.getLsbD_setWidth, BitVec.getLsbD_signExtend, hj, hj64, decide_true, Bool.true_and,
      if_true]
  | preserve => exact BitVec.setWidth_append_eq_right

/-- In the base architecture an ALU instruction leaves its 32-bit result in the register, zeros above. -/
theorem clip_aluResult_of_base {s : State} (h : s.cfg.hasQ64 = false) (f : (w : Nat) → BitVec w → BitVec w → BitVec w)
    (c a : Reg) (b : (w : Nat) → BitVec w) :
    clip s.cfg (aluResult f c a b s) = (f 32 ((s.reg a).setWidth 32) (b 32)).setWidth 64 := by
  simp [clip, aluResult, h, State.wide_of_base h, setWidth_fillUpper]

/-- A completed write of one register changes that register and the pc alone. -/
theorem sameBut_setReg_advance (s : State) (c : Reg) (v : RegVal) : SameBut s (s.setReg c v).advance c where
  gpr _ hc := State.setReg_gpr_ne s v hc
  ir := by simp
  sr := by simp
  mem := by simp
  cfg := by simp
  irq := by simp

theorem gives_of_exec {i : Instr} {s : State} {c : Reg} {v : RegVal} {n : Nat}
    (h : exec i s = .next (s.setReg c v).advance) (hn : (clip s.cfg v).toNat = n) : Gives i s c n := by
  refine ⟨_, h, by simp, sameBut_setReg_advance s c v, ?_⟩
  rintro k rfl
  rw [← hn]
  exact congrArg BitVec.toNat (State.setReg_gpr_same s k v)

/-- ADD in the base architecture (R172). -/
theorem gives_add_of_base {s : State} (h : s.cfg.hasQ64 = false) (c a b : Reg) :
    Gives (.add c a b) s c ((low s a + low s b) % 2 ^ 32) := by
  refine gives_of_exec (v := aluResult aluAdd c a (fun w => (s.reg b).setWidth w) s) rfl ?_
  rw [clip_aluResult_of_base h, BitVec.toNat_setWidth_of_le (by decide)]
  simp [aluAdd, low]

/-! What an instruction does to the pc, IR and SR -/

/-- The pc of a completed instruction that does not leave the sequence (R37). -/
theorem exec_pc_of_sequential {i : Instr} {s t : State} (hi : leavesSequence i = false) (h : exec i s = .next t) :
    t.pc = s.pc + 4 := by
  rcases exec_next h with
    ⟨c, v, rfl⟩ | ⟨-, a, n, v, rfl⟩ | ⟨hjump, -⟩ | ⟨n, b, -, rfl⟩ | ⟨rfl, -⟩ | ⟨rfl, -⟩
  · simp
  · simp
  · simp [hi] at hjump
  · split <;> simp
  · cases hi
  · cases hi

/-- No instruction but SYSCAL writes IR (R24). -/
theorem exec_ir {i : Instr} {s t : State} (h : exec i s = .next t) (hi : i ≠ .syscal) : t.ir = s.ir := by
  rcases exec_next h with
    ⟨c, v, rfl⟩ | ⟨-, a, n, v, rfl⟩ | ⟨-, -, -, hjump⟩ | ⟨n, b, -, rfl⟩ | ⟨-, rfl⟩ | ⟨hsyscal, -⟩
  · simp
  · simp
  · rcases hjump with rfl | ⟨a, rfl⟩ <;> simp
  · split <;> simp
  · simp
  · exact absurd hsyscal hi

theorem trapEnter_sr {v : Vec} {ret : Addr} {s t : State} (h : trapEnter v ret s = .next t) :
    t.sr = withStatusBit s.sr 0 true := by
  obtain ⟨target, -, rfl⟩ := trapEnter_next.mp h
  rfl

theorem getLsbD_withStatusBit_ne (sr : BitVec 4) {n m : Nat} (b : Bool) (h : m ≠ n) :
    (withStatusBit sr n b).getLsbD m = sr.getLsbD m := by
  rw [getLsbD_withStatusBit, if_neg fun hn => h hn.1]

/-- What a completed instruction can do to SR (R30, R34): SYSCAL sets K, URT clears it, SSB and CSB write I, P or Q in
kernel mode, and every other instruction leaves SR as it was. -/
theorem exec_sr {i : Instr} {s t : State} (h : exec i s = .next t) :
    (i = .syscal ∧ t.sr = withStatusBit s.sr 0 true) ∨
    (i = .urt ∧ t.sr = withStatusBit s.sr 0 false) ∨
    (i ≠ .syscal ∧ i ≠ .urt ∧ (t.sr = s.sr ∨
      ∃ n b, (i = .ssb n ∨ i = .csb n) ∧ s.srK = true ∧ 1 ≤ n.toNat ∧ t.sr = withStatusBit s.sr n.toNat b)) := by
  by_cases hsyscal : i = .syscal
  · subst hsyscal
    exact .inl ⟨rfl, trapEnter_sr h⟩
  by_cases hurt : i = .urt
  · subst hurt
    cases h
    exact .inr (.inl ⟨rfl, rfl⟩)
  refine .inr (.inr ⟨hsyscal, hurt, ?_⟩)
  rcases exec_next h with
    ⟨c, v, rfl⟩ | ⟨-, a, n, v, rfl⟩ | ⟨-, -, -, hjump⟩ | ⟨n, b, hi, rfl⟩ | ⟨hi, -⟩ | ⟨hi, -⟩
  · exact .inl (by simp)
  · exact .inl (by simp)
  · rcases hjump with rfl | ⟨a, rfl⟩ <;> exact .inl (by simp)
  · split
    · rename_i hif
      obtain ⟨hkernel, hone, -⟩ := hif
      exact .inr ⟨n, b, hi, hkernel, hone, rfl⟩
    · exact .inl rfl
  · exact absurd hi hurt
  · exact absurd hi hsyscal

/-- K after a completed instruction (R30). -/
theorem exec_srK {i : Instr} {s t : State} (h : exec i s = .next t) :
    t.sr.getLsbD 0 = if i = .syscal then true else if i = .urt then false else s.sr.getLsbD 0 := by
  rcases exec_sr h with ⟨rfl, hsr⟩ | ⟨rfl, hsr⟩ | ⟨hsyscal, hurt, hsr | ⟨n, b, -, -, hone, hsr⟩⟩
  · rw [hsr, getLsbD_withStatusBit]
    simp
  · rw [hsr, getLsbD_withStatusBit]
    simp
  · simp [hsyscal, hurt, hsr]
  · rw [hsr, getLsbD_withStatusBit_ne _ _ (by omega), if_neg hsyscal, if_neg hurt]

/-- I, P and Q change only in kernel mode, by the SSB or CSB that names the bit (R34). -/
theorem exec_changes_statusBit {i : Instr} {s t : State} {n : Nat} (h : exec i s = .next t) (hn : n ≠ 0)
    (hbit : t.sr.getLsbD n ≠ s.sr.getLsbD n) :
    s.srK = true ∧ ∃ m : BitVec 5, m.toNat = n ∧ (i = .ssb m ∨ i = .csb m) := by
  rcases exec_sr h with ⟨-, hsr⟩ | ⟨-, hsr⟩ | ⟨-, -, hsr | ⟨m, b, hi, hkernel, -, hsr⟩⟩
  · exact absurd (hsr ▸ getLsbD_withStatusBit_ne _ _ hn) hbit
  · exact absurd (hsr ▸ getLsbD_withStatusBit_ne _ _ hn) hbit
  · exact absurd (hsr ▸ rfl) hbit
  · refine ⟨hkernel, m, ?_, hi⟩
    refine Decidable.byContradiction fun hm => hbit ?_
    rw [hsr, getLsbD_withStatusBit_ne _ _ (Ne.symm hm)]

/-- In user mode no instruction but SYSCAL and URT writes SR (R213). -/
theorem exec_sr_of_user {i : Instr} {s t : State} (huser : s.srK = false) (h : exec i s = .next t) (hsyscal : i ≠ .syscal)
    (hurt : i ≠ .urt) : t.sr = s.sr := by
  rcases exec_sr h with ⟨hi, -⟩ | ⟨hi, -⟩ | ⟨-, -, hsr | ⟨m, b, -, hkernel, -⟩⟩
  · exact absurd hi hsyscal
  · exact absurd hi hurt
  · exact hsr
  · cases huser.symm.trans hkernel

/-! The invariant over each operation -/

theorem two_le_jumpIgnoredBits {c : Config} (h : c.wf = true) : 2 ≤ c.jumpIgnoredBits := by
  simp only [Config.wf, Bool.and_eq_true, decide_eq_true_eq] at h
  obtain ⟨⟨⟨hjump, -⟩, -⟩, -⟩ := h
  exact hjump

theorem align_mod_four (a : Addr) {k : Nat} (hk : 2 ≤ k) : (align a k).toNat % 4 = 0 := by
  rw [toNat_align]
  exact Nat.mod_eq_zero_of_dvd (Nat.dvd_trans (Nat.pow_dvd_pow 2 hk) (Nat.dvd_mul_left _ _))

theorem add_four_mod_four {a : Addr} (h : a.toNat % 4 = 0) : (a + 4).toNat % 4 = 0 := by
  rw [BitVec.toNat_add, show (4 : Addr).toNat = 4 from rfl]
  omega

/-- The invariant speaks of SR and of the interrupt input not at all, and of the pc and IR only that they are multiples
of 4. -/
theorem State.Inv.with_pc_ir {s : State} (h : s.Inv) {pc ir : Addr} (sr : BitVec 4) (irq : IrqInput)
    (hpc : pc.toNat % 4 = 0) (hir : ir.toNat % 4 = 0) : State.Inv { s with pc, ir, sr, irq } :=
  ⟨h.cfgWf, hpc, hir, h.memWf, h.gprFits⟩

theorem State.Inv.sampled {s : State} (h : s.Inv) : s.sampled.Inv := h.with_pc_ir _ _ h.pcAligned h.irAligned

theorem State.Inv.advance {s : State} (h : s.Inv) : s.advance.Inv :=
  h.with_pc_ir _ _ (add_four_mod_four h.pcAligned) h.irAligned

theorem State.Inv.jumpTo {s : State} (h : s.Inv) (a : Addr) : (s.jumpTo a).Inv :=
  h.with_pc_ir _ _ (align_mod_four a (two_le_jumpIgnoredBits h.cfgWf)) h.irAligned

theorem State.Inv.trapReturn {s : State} (h : s.Inv) : (trapReturn s).Inv := h.with_pc_ir _ _ h.irAligned h.irAligned

theorem State.Inv.trapEnter {s t : State} {v : Vec} {ret : Addr} (h : s.Inv) (hret : ret.toNat % 4 = 0)
    (ht : trapEnter v ret s = .next t) : t.Inv := by
  obtain ⟨target, htarget, rfl⟩ := trapEnter_next.mp ht
  exact h.with_pc_ir _ _ (vectorTarget_aligned htarget) hret

theorem State.Inv.memWrite {s : State} (h : s.Inv) (a : Addr) (n v : Nat) : (memWrite s a n v).Inv :=
  ⟨h.cfgWf, h.pcAligned, h.irAligned, memWrite_wf a n v h.memWf, h.gprFits⟩

theorem State.Inv.setReg {s : State} (h : s.Inv) (r : Reg) (v : RegVal) : (s.setReg r v).Inv where
  cfgWf := by simpa using h.cfgWf
  pcAligned := by simpa using h.pcAligned
  irAligned := by simpa using h.irAligned
  memWf := by simpa using h.memWf
  gprFits hbase k := by
    rw [State.setReg_cfg] at hbase
    by_cases hr : r = .gpr k
    · subst hr
      rw [State.reg_setReg_same, toNat_clip_of_base hbase]
      exact Nat.mod_lt _ (by decide)
    · rw [State.reg_setReg_ne s v hr]
      exact h.gprFits hbase k

/-- Every instruction is made of operations that keep the invariant. -/
theorem exec_keeps_inv {i : Instr} {s t : State} (hs : s.Inv) (h : exec i s = .next t) : t.Inv := by
  rcases exec_next h with
    ⟨c, v, rfl⟩ | ⟨-, a, n, v, rfl⟩ | ⟨-, -, -, hjump⟩ | ⟨n, b, -, rfl⟩ | ⟨-, rfl⟩ | ⟨-, htrap⟩
  · exact (hs.setReg c v).advance
  · exact (hs.memWrite a n v).advance
  · rcases hjump with rfl | ⟨a, rfl⟩
    · exact hs.advance
    · exact hs.jumpTo a
  · split
    · exact (hs.with_pc_ir _ _ hs.pcAligned hs.irAligned).advance
    · exact hs.advance
  · exact hs.trapReturn
  · exact hs.trapEnter (add_four_mod_four hs.pcAligned) htrap

end Sys2Proof.Machine

namespace Sys2Proof.Spec

open Sys2Proof.Machine

/-! States that differ in one bit of SR: each operation carries the relation on -/

theorem agreeBut_iff {n : Nat} {s t : State} :
    AgreeBut n s t ↔ ∃ sr : BitVec 4, (∀ m, m ≠ n → sr.getLsbD m = s.sr.getLsbD m) ∧ t = { s with sr } :=
  ⟨fun ⟨hbits, ht⟩ => ⟨t.sr, hbits, ht⟩, by rintro ⟨sr, hbits, rfl⟩; exact ⟨hbits, rfl⟩⟩

theorem withStatusBit_agree {n : Nat} {x y : BitVec 4} (h : ∀ m, m ≠ n → y.getLsbD m = x.getLsbD m) (k : Nat) (b : Bool)
    (m : Nat) (hm : m ≠ n) : (withStatusBit y k b).getLsbD m = (withStatusBit x k b).getLsbD m := by
  simp only [getLsbD_withStatusBit, h m hm]

section
variable {n : Nat} {s t : State}

theorem AgreeBut.next (h : AgreeBut n s t) : OutcomesAgreeBut n (.next s) (.next t) := h

theorem AgreeBut.cfg_eq (h : AgreeBut n s t) : t.cfg = s.cfg := by rw [h.2]
theorem AgreeBut.pc_eq (h : AgreeBut n s t) : t.pc = s.pc := by rw [h.2]

theorem AgreeBut.reg_eq (h : AgreeBut n s t) {r : Reg} (hr : r ≠ .sr) : t.reg r = s.reg r := by
  obtain ⟨sr, -, rfl⟩ := agreeBut_iff.mp h
  cases r with
  | sr => exact absurd rfl hr
  | _ => rfl

theorem AgreeBut.memRead_eq (h : AgreeBut n s t) (a : Addr) (m : Nat) : memRead t a m = memRead s a m := by
  obtain ⟨sr, -, rfl⟩ := agreeBut_iff.mp h
  rfl

theorem AgreeBut.vectorTarget_eq (h : AgreeBut n s t) (v : Vec) : vectorTarget t v = vectorTarget s v := by
  obtain ⟨sr, -, rfl⟩ := agreeBut_iff.mp h
  rfl

/-- The operating width is the same where the bit is not Q or the 64-bit extension is absent (R32). -/
theorem AgreeBut.wide_eq (h : AgreeBut n s t) (hn : n ≠ 3 ∨ s.cfg.hasQ64 = false) : t.wide = s.wide := by
  rcases hn with hn | hbase
  · simp only [State.wide, State.srQ, h.cfg_eq, h.1 3 hn.symm]
  · rw [State.wide_of_base hbase, State.wide_of_base (h.cfg_eq ▸ hbase)]

theorem AgreeBut.advance (h : AgreeBut n s t) : AgreeBut n s.advance t.advance := by
  obtain ⟨sr, hbits, rfl⟩ := agreeBut_iff.mp h
  exact ⟨hbits, rfl⟩

theorem AgreeBut.jumpTo (h : AgreeBut n s t) (a : Addr) : AgreeBut n (s.jumpTo a) (t.jumpTo a) := by
  obtain ⟨sr, hbits, rfl⟩ := agreeBut_iff.mp h
  exact ⟨hbits, rfl⟩

theorem AgreeBut.memWrite (h : AgreeBut n s t) (a : Addr) (m v : Nat) :
    AgreeBut n (memWrite s a m v) (memWrite t a m v) := by
  obtain ⟨sr, hbits, rfl⟩ := agreeBut_iff.mp h
  exact ⟨hbits, rfl⟩

theorem AgreeBut.trapReturn (h : AgreeBut n s t) : AgreeBut n (trapReturn s) (trapReturn t) := by
  obtain ⟨sr, hbits, rfl⟩ := agreeBut_iff.mp h
  exact ⟨withStatusBit_agree hbits 0 false, rfl⟩

/-- The values written need not be equal where the destination is r31, which a write does not change: an ALU instruction
with `Q0_UPPER = preserve` reads its destination. -/
theorem AgreeBut.setReg (h : AgreeBut n s t) {c : Reg} {v w : RegVal} (hvw : c ≠ .sr → w = v) :
    AgreeBut n (s.setReg c v) (t.setReg c w) := by
  by_cases hc : c = .sr
  · subst hc
    exact h
  · obtain ⟨sr, hbits, rfl⟩ := agreeBut_iff.mp h
    rw [hvw hc]
    cases c <;> exact ⟨hbits, rfl⟩

theorem AgreeBut.access (h : AgreeBut n s t) (a : Addr) (m : Nat) {k l : Host.Outcome State Fault Refusal}
    (hkl : OutcomesAgreeBut n k l) : OutcomesAgreeBut n (access s a m k) (access t a m l) := by
  cases hb : backs s.cfg a m with
  | true => rwa [access_of_backs hb, access_of_backs (h.cfg_eq ▸ hb)]
  | false =>
    rw [access_of_not_backs hb, access_of_not_backs (h.cfg_eq ▸ hb)]
    rfl

theorem AgreeBut.trapEnter (h : AgreeBut n s t) (v : Vec) (ret : Addr) :
    OutcomesAgreeBut n (trapEnter v ret s) (trapEnter v ret t) := by
  simp only [Machine.trapEnter, h.vectorTarget_eq]
  cases vectorTarget s v with
  | next target =>
    obtain ⟨sr, hbits, rfl⟩ := agreeBut_iff.mp h
    exact ⟨withStatusBit_agree hbits 0 true, rfl⟩
  | fault f => rfl
  | refused r => rfl

theorem AgreeBut.load (h : AgreeBut n s t) {a : Reg} (ha : a ≠ .sr) (m k : Nat) (c : Reg) (imm : BitVec 13) :
    OutcomesAgreeBut n (load m k c a imm s) (load m k c a imm t) := by
  simp only [Machine.load, effAddr, h.reg_eq ha, h.cfg_eq, h.memRead_eq]
  exact h.access _ _ (h.setReg fun _ => rfl).advance.next

theorem AgreeBut.store (h : AgreeBut n s t) {a b : Reg} (ha : a ≠ .sr) (hb : b ≠ .sr) (m k : Nat) (imm : BitVec 13) :
    OutcomesAgreeBut n (store m k b a imm s) (store m k b a imm t) := by
  simp only [Machine.store, effAddr, h.reg_eq ha, h.reg_eq hb]
  exact h.access _ _ (h.memWrite _ _ _).advance.next

theorem AgreeBut.condHolds_eq (h : AgreeBut n s t) (hw : t.wide = s.wide) {a b : Reg} (ha : a ≠ .sr) (hb : b ≠ .sr)
    (cond : (w : Nat) → BitVec w → BitVec w → Bool) : condHolds cond a b t = condHolds cond a b s := by
  simp only [condHolds, hw, h.reg_eq ha, h.reg_eq hb]

theorem AgreeBut.condJump (h : AgreeBut n s t) (hw : t.wide = s.wide) {a b : Reg} (ha : a ≠ .sr) (hb : b ≠ .sr)
    (cond : (w : Nat) → BitVec w → BitVec w → Bool) (imm : BitVec 13) :
    OutcomesAgreeBut n (condJump cond a b imm s) (condJump cond a b imm t) := by
  simp only [Machine.condJump, h.condHolds_eq hw ha hb, pcTarget, h.pc_eq]
  cases condHolds cond a b s with
  | true => exact (h.jumpTo _).next
  | false => exact h.advance.next

/-- The operations of the two states need only be equal, not the same term: the shifts take theirs from the
configuration. -/
theorem AgreeBut.alu (h : AgreeBut n s t) (hw : t.wide = s.wide) {a : Reg} (ha : a ≠ .sr) (c : Reg)
    {f g : (w : Nat) → BitVec w → BitVec w → BitVec w} (hfg : g = f) (b : (w : Nat) → BitVec w) :
    OutcomesAgreeBut n (alu f c a b s) (alu g c a b t) := by
  refine (h.setReg fun hc => ?_).advance.next
  simp only [aluResult, hw, h.reg_eq ha, h.reg_eq hc, h.cfg_eq, hfg]

theorem AgreeBut.aluReg (h : AgreeBut n s t) (hw : t.wide = s.wide) {a b : Reg} (ha : a ≠ .sr) (hb : b ≠ .sr) (c : Reg)
    {f g : (w : Nat) → BitVec w → BitVec w → BitVec w} (hfg : g = f) :
    OutcomesAgreeBut n (aluReg f c a b s) (aluReg g c a b t) := by
  simp only [Machine.aluReg, h.reg_eq hb]
  exact h.alu hw ha c hfg _

theorem AgreeBut.aluRegImm (h : AgreeBut n s t) (hw : t.wide = s.wide) {a : Reg} (ha : a ≠ .sr) (c : Reg) (imm : BitVec 13)
    {f g : (w : Nat) → BitVec w → BitVec w → BitVec w} (hfg : g = f) :
    OutcomesAgreeBut n (aluRegImm f c a imm s) (aluRegImm g c a imm t) := by
  simp only [Machine.aluRegImm, h.cfg_eq]
  exact h.alu hw ha c hfg _

end

/-- The simulation: where the operating width is the same, an instruction that neither reads SR nor names a status bit
carries states that differ in one bit of SR to outcomes that differ in that bit alone. -/
theorem AgreeBut.exec {n : Nat} {s t : State} (h : AgreeBut n s t) (hw : t.wide = s.wide) {i : Instr} (hi : IgnoresSr i) :
    OutcomesAgreeBut n (exec i s) (exec i t) := by
  obtain ⟨hsr, hbit⟩ := hi
  have hsrc : ∀ r ∈ sourceRegs i, r ≠ .sr := fun r hr e => hsr (e ▸ hr)
  cases i with
  | syscal =>
    simp only [Machine.exec, execSyscal, h.pc_eq]
    exact h.trapEnter _ _
  | urt => exact h.trapReturn.next
  | ssb m | csb m => cases hbit
  | lui c imm => exact (h.setReg fun _ => rfl).advance.next
  | luiUU c imm | luiLU c imm => exact (h.setReg fun hc => by rw [h.reg_eq hc]).advance.next
  | jmp imm =>
    simp only [Machine.exec, execJmp, pcTarget, h.pc_eq]
    exact (h.jumpTo _).next
  | irj a imm =>
    simp only [Machine.exec, execIrj, regTarget, h.reg_eq (hsrc a (.head _))]
    exact (h.jumpTo _).next
  | ldb c a imm | ldw c a imm | ldd c a imm => exact h.load (hsrc a (.head _)) _ _ c imm
  | ldq c a imm =>
    simp only [Machine.exec, execLdq, h.cfg_eq]
    exact h.load (hsrc a (.head _)) _ _ c imm
  | stb b a imm | stw b a imm | std b a imm => exact h.store (hsrc a (.head _)) (hsrc b (.tail _ (.head _))) _ _ imm
  | stq b a imm =>
    simp only [Machine.exec, execStq, h.cfg_eq]
    exact h.store (hsrc a (.head _)) (hsrc b (.tail _ (.head _))) _ _ imm
  | jeq a b imm | jlt a b imm | jslt a b imm | jsv a b imm | jne a b imm | jge a b imm | jsge a b imm | jnsv a b imm =>
    exact h.condJump hw (hsrc a (.head _)) (hsrc b (.tail _ (.head _))) _ imm
  | add c a b | sub c a b | and c a b | or c a b | xor c a b | cch c a b | bch c a b | mul c a b | div c a b
  | mod c a b => exact h.aluReg hw (hsrc a (.head _)) (hsrc b (.tail _ (.head _))) c rfl
  | shr c a b | asr c a b | shl c a b | asl c a b =>
    exact h.aluReg hw (hsrc a (.head _)) (hsrc b (.tail _ (.head _))) c (by rw [h.cfg_eq])
  | addi c a imm | subi c a imm | andi c a imm | ori c a imm | xori c a imm | cchi c a imm | bchi c a imm
  | muli c a imm | divi c a imm | modi c a imm => exact h.aluRegImm hw (hsrc a (.head _)) c imm rfl
  | shri c a imm | asri c a imm | shli c a imm | asli c a imm =>
    exact h.aluRegImm hw (hsrc a (.head _)) c imm (by rw [h.cfg_eq])

end Sys2Proof.Spec

namespace Sys2Proof.Proofs

open Sys2Proof.Machine Sys2Proof.Spec

/-- Settles O8: trap entry saves an aligned pc, and each instruction is made of operations that keep the invariant. -/
theorem stepKeepsInvariant : Obligations.StepKeepsInvariant := by
  intro s t hs h
  rcases step_next h with ⟨-, htrap⟩ | ⟨-, i, -, hexec⟩
  · exact hs.sampled.trapEnter hs.pcAligned htrap
  · exact exec_keeps_inv hs.sampled hexec

/-- Settles O44, by what each step does to SR and, for its second part, the simulation with the bit K. -/
theorem kernelBitEventsAndEffect : Obligations.KernelBitEventsAndEffect := by
  refine ⟨fun s t h => ?_, fun i s t hi h => h.exec (h.wide_eq (.inl (by decide))) hi⟩
  rcases step_next h with ⟨hint, htrap⟩ | ⟨hint, i, hfetch, hexec⟩
  · refine .inl ⟨hint, ?_⟩
    rw [trapEnter_sr htrap, getLsbD_withStatusBit]
    rfl
  · exact .inr ⟨hint, i, fetch_next.mp hfetch, by rw [exec_srK hexec, State.sampled_sr]⟩

/-- Settles O45, by the simulation: none of the three bits changes the operating width. -/
theorem statusBitsWithoutEffect : Obligations.StatusBitsWithoutEffect := by
  intro n i s t hn hi h
  refine h.exec (h.wide_eq ?_) hi
  rcases hn with rfl | rfl | ⟨-, hbase⟩
  · exact .inl (by decide)
  · exact .inl (by decide)
  · exact .inr hbase

/-- Settles O3: SYSCAL is the one instruction whose completion changes IR. -/
theorem onlyTrapsWriteInterruptPointer : Obligations.OnlyTrapsWriteInterruptPointer := by
  refine ⟨fun s => ?_, fun s t h hir => ?_, fun i s t h hi => exec_ir h hi, fun s v => State.setReg_of_not_writable rfl⟩
  · rw [State.reg_ir, BitVec.toNat_setWidth_of_le (by decide)]
  · rcases step_next h with ⟨hint, -⟩ | ⟨-, i, hfetch, hexec⟩
    · exact .inl hint
    · by_cases hi : i = .syscal
      · exact .inr (fetch_next.mp (hi ▸ hfetch))
      · exact absurd (exec_ir hexec hi) hir

/-- Settles O4: its last part is ADD in the base architecture with three times the same register. -/
theorem registersDoNotAlias : Obligations.RegistersDoNotAlias := by
  refine ⟨fun s r r' v hr => State.reg_setReg_ne s v hr, fun s k v hq => ?_, fun s k hbase => ?_⟩
  · rw [State.reg_setReg_same, clip_of_q64 hq]
  · rw [Nat.two_mul]
    exact gives_add_of_base hbase _ _ _

/-- Settles O46: trap entry writes bit 0 of SR alone, and of the instructions only SSB and CSB in kernel mode write
another. -/
theorem onlyKernelChangesStatusBits : Obligations.OnlyKernelChangesStatusBits := by
  refine ⟨fun s t n h hn hbit => ?_, fun s t n huser h => ?_, fun s v => State.setReg_of_not_writable rfl⟩
  · have hzero : n ≠ 0 := by omega
    rcases step_next h with ⟨-, htrap⟩ | ⟨hint, i, hfetch, hexec⟩
    · exact absurd (trapEnter_sr htrap ▸ getLsbD_withStatusBit_ne _ _ hzero) hbit
    · obtain ⟨hkernel, m, hm, rfl | rfl⟩ := exec_changes_statusBit hexec hzero hbit
      · exact ⟨hint, hkernel, m, hm, .inl (fetch_next.mp hfetch)⟩
      · exact ⟨hint, hkernel, m, hm, .inr (fetch_next.mp hfetch)⟩
  · rcases h with h | h <;> exact exec_sr_of_user huser h (by simp) (by simp)

/-- Settles O47, by the forms of a completed instruction. -/
theorem sequentialInstructionsAdvance : Obligations.SequentialInstructionsAdvance :=
  fun _ _ _ hi h => exec_pc_of_sequential hi h

/-- Settles O1: r0 has no storage and reads as the constant. -/
theorem zeroRegisterReadsZero : Obligations.ZeroRegisterReadsZero := fun s => by
  rw [State.reg_zr]
  rfl

/-- Settles O2: r31 is the four stored bits, zero-extended. -/
theorem statusRegisterRead : Obligations.StatusRegisterRead := by
  refine fun s => ⟨fun n hn => ?_, fun n hn => ?_⟩
  · rw [State.reg_sr, BitVec.getLsbD_setWidth, decide_eq_true (by omega), Bool.true_and]
  · rw [State.reg_sr, BitVec.getLsbD_setWidth, BitVec.getLsbD_of_ge _ _ hn, Bool.and_false]

/-- Settles O5: a write acts on general registers only. -/
theorem readOnlyRegisters : Obligations.ReadOnlyRegisters := by
  refine ⟨fun s r v hr => State.setReg_of_not_writable hr, fun s => ?_⟩
  rw [State.reg_ip, BitVec.toNat_setWidth_of_le (by decide)]

/-- Settles O7: the ignored-bit parameters and both addresses are closed terms, memory is empty, and the reset
configuration has 64-bit registers. -/
theorem invariantHoldsAtReset : Obligations.InvariantHoldsAtReset where
  cfgWf := rfl
  pcAligned := rfl
  irAligned := rfl
  memWf := rfl
  gprFits hbase := nomatch hbase

end Sys2Proof.Proofs

/-! SUPPORT. The family `20_memory.md`: the bytes of an access and its value, a read after a write, the instructions that
leave memory alone, and the accesses outside the populated memory. -/

namespace Sys2Proof.Machine

open Sys2Proof.Spec

/-! The bytes of a value -/

/-- The base-256 digits of a joined value are its bytes. -/
theorem joinBytes_div_mod (bs : List Byte) (j : Nat) (hj : j < bs.length) :
    joinBytes bs / 256 ^ j % 256 = bs[j].toNat := by
  induction bs generalizing j with
  | nil => simp at hj
  | cons b bs ih =>
    have hb : b.toNat < 256 := b.isLt
    cases j with
    | zero =>
      simp only [joinBytes, Nat.pow_zero, Nat.div_one, List.getElem_cons_zero]
      omega
    | succ j =>
      have htail : (b.toNat + 256 * joinBytes bs) / 256 = joinBytes bs := by omega
      rw [joinBytes, Nat.pow_succ', ← Nat.div_div_eq_div_mul, htail, List.getElem_cons_succ]
      exact ih j (by simpa using hj)

theorem bytePlace_lt (e : Endian) {n j : Nat} (hj : j < n) : bytePlace e n j < n := by
  cases e <;> simp only [bytePlace] <;> omega

/-- The byte of significance `j` in a run of bytes is the one at its place from the low end. -/
theorem Endian.value_div_mod (e : Endian) (bs : List Byte) (j : Nat) (hj : j < bs.length) :
    e.value bs / 256 ^ j % 256 = (bs[bytePlace e bs.length j]'(bytePlace_lt e hj)).toNat := by
  rw [Endian.value, joinBytes_div_mod _ _ (by simpa using hj)]
  cases e with
  | little => rfl
  | big => simp [Endian.order, bytePlace]

/-- The digits of a read are the bytes of memory (R66). -/
theorem memRead_div_mod (s : State) (a : Addr) {n j : Nat} (hj : j < n) :
    memRead s a n / 256 ^ j % 256 = (s.mem.read (byteAddr s a n j)).toNat := by
  have hplace := bytePlace_lt s.cfg.endian hj
  rw [memRead, Endian.value_div_mod _ _ _ (by simpa using hj)]
  simp only [Memory.length_readBytes, Memory.getElem_readBytes _ _ _ _ hplace, byteAddr]

/-! A read after a write -/

/-- A run of bytes depends on the bytes at its addresses alone. -/
theorem Memory.readBytes_congr {m m' : Memory} {a : Addr} {n : Nat}
    (h : ∀ j < n, m'.read (a + BitVec.ofNat 32 j).toNat = m.read (a + BitVec.ofNat 32 j).toNat) :
    m'.readBytes a n = m.readBytes a n :=
  List.ext_getElem (by simp) fun j hj _ => by
    have hjn : j < n := by simpa using hj
    rw [Memory.getElem_readBytes _ _ _ _ hjn, Memory.getElem_readBytes _ _ _ _ hjn, h j hjn]

/-- In canonical memory a run of bytes just stored reads back, where it does not wrap onto itself. -/
theorem Memory.readBytes_writeBytes_same {m : Memory} (a : Addr) (bs : List Byte) (hm : m.wf = true)
    (hl : bs.length ≤ 2 ^ 32) : (m.writeBytes a bs).readBytes a bs.length = bs :=
  List.ext_getElem (by simp) fun j _ hj => by
    rw [Memory.getElem_readBytes _ _ _ _ hj,
      Memory.read_writeBytes_in a bs j ((Memory.wf_iff m).mp hm).1 hl hj]

/-- A run of bytes that shares no address with the bytes stored reads as before. -/
theorem Memory.readBytes_writeBytes_disjoint (m : Memory) {a b : Addr} {bs : List Byte} {n : Nat}
    (h : ∀ i < bs.length, ∀ j < n, a + BitVec.ofNat 32 i ≠ b + BitVec.ofNat 32 j) :
    (m.writeBytes a bs).readBytes b n = m.readBytes b n :=
  Memory.readBytes_congr fun j hj => Memory.read_writeBytes_out m a bs _ fun i hi e =>
    h i hi j hj (BitVec.eq_of_toNat_eq e.symm)

theorem memRead_memWrite_same {s : State} (a : Addr) {n : Nat} (v : Nat) (hm : s.mem.wf = true) (hn : n ≤ 2 ^ 32) :
    memRead (memWrite s a n v) a n = v % 256 ^ n := by
  have hbytes := Memory.readBytes_writeBytes_same a (s.cfg.endian.bytes n v) hm (by simpa using hn)
  rw [Endian.length_bytes] at hbytes
  rw [memRead, State.memWrite_mem, State.memWrite_cfg, hbytes, Endian.value_bytes]

theorem memRead_memWrite_disjoint (s : State) {a b : Addr} {n m : Nat} (v : Nat)
    (h : ∀ i < n, ∀ j < m, a + BitVec.ofNat 32 i ≠ b + BitVec.ofNat 32 j) :
    memRead (memWrite s a n v) b m = memRead s b m := by
  have hbytes : (s.mem.writeBytes a (s.cfg.endian.bytes n v)).readBytes b m = s.mem.readBytes b m :=
    Memory.readBytes_writeBytes_disjoint s.mem (by simpa using h)
  rw [memRead, State.memWrite_mem, State.memWrite_cfg, hbytes, memRead]

@[simp] theorem memRead_advance (s : State) (a : Addr) (n : Nat) : memRead s.advance a n = memRead s a n := rfl

/-- A fetch reads what a 4-byte write at the pc has just stored (R75). -/
theorem toNat_fetchWord_of_memWrite {s t : State} {a : Addr} {v : Nat} (hm : s.mem.wf = true)
    (ht : t = (memWrite s a 4 v).advance) (hpc : t.pc = a) : (fetchWord t).toNat = v % 2 ^ 32 := by
  rw [fetchWord, hpc, ht, memRead_advance, memRead_memWrite_same a v hm (by decide), BitVec.toNat_ofNat]
  exact Nat.mod_mod _ _

/-! What leaves memory alone -/

theorem trapEnter_keeps_mem {v : Vec} {ret : Addr} {s t : State} (h : trapEnter v ret s = .next t) : t.mem = s.mem := by
  obtain ⟨target, -, rfl⟩ := trapEnter_next.mp h
  rfl

/-- An instruction that is no store leaves memory as it was (R61). -/
theorem exec_keeps_mem {i : Instr} {s t : State} (hi : isStore i = false) (h : exec i s = .next t) : t.mem = s.mem := by
  rcases exec_next h with
    ⟨c, v, rfl⟩ | ⟨hstore, -⟩ | ⟨-, -, -, hjump⟩ | ⟨n, b, -, rfl⟩ | ⟨-, rfl⟩ | ⟨-, htrap⟩
  · simp
  · simp [hi] at hstore
  · rcases hjump with rfl | ⟨a, rfl⟩ <;> simp
  · split <;> simp
  · simp
  · exact trapEnter_keeps_mem htrap

/-! Accesses outside the populated memory (R64) -/

theorem load_of_not_backs {n k : Nat} {c a : Reg} {imm : BitVec 13} {s : State}
    (h : backs s.cfg (align (effAddr s a imm) k) n = false) :
    load n k c a imm s = .fault (.unpopulated (align (effAddr s a imm) k)) := access_of_not_backs h

theorem store_of_not_backs {n k : Nat} {b a : Reg} {imm : BitVec 13} {s : State}
    (h : backs s.cfg (align (effAddr s a imm) k) n = false) :
    store n k b a imm s = .fault (.unpopulated (align (effAddr s a imm) k)) := access_of_not_backs h

theorem fetch_of_not_backs {s : State} (h : backs s.cfg s.pc 4 = false) : fetch s = .fault (.unpopulated s.pc) :=
  access_of_not_backs h

/-- In `pointer` mode a trap reads its vector, and the access faults where the vector is not populated. -/
theorem trapEnter_of_not_backs {v : Vec} {ret : Addr} {s : State} (hmode : s.cfg.vectorMode = .pointer)
    (h : backs s.cfg (vectorAddr v) 4 = false) : trapEnter v ret s = .fault (.unpopulated (vectorAddr v)) := by
  have htarget : vectorTarget s v = .fault (.unpopulated (vectorAddr v)) := by
    simp only [vectorTarget, hmode, access_of_not_backs h]
  simp only [trapEnter, htarget]

theorem step_of_fetch_fault {s : State} {f : Fault} (hint : s.takesInterrupt = false) (hfetch : fetch s = .fault f) :
    step s = .fault f := by
  simp [step, hint, hfetch]

theorem step_of_takesInterrupt {s : State} (h : s.takesInterrupt = true) :
    step s = trapEnter .hardware s.pc s.sampled := if_pos h

end Sys2Proof.Machine

namespace Sys2Proof.Proofs

open Sys2Proof.Machine Sys2Proof.Spec

/-- Settles O14: the digits of the value are the bytes of the run, put in the order of significance. -/
theorem memReadAssemblesBytes : Obligations.MemReadAssemblesBytes := fun s a n =>
  ⟨memRead_lt s a n, fun _ hj => memRead_div_mod s a hj⟩

/-- Settles O15: both parts hold of the run of bytes under the value, in either order. -/
theorem readAfterWrite : Obligations.ReadAfterWrite := fun s a _ v hm hn =>
  ⟨memRead_memWrite_same a v hm (Nat.le_trans hn (by decide)), fun _ _ h => memRead_memWrite_disjoint s v h⟩

/-- Settles O22: the completed STD has written its 4 bytes where the advanced pc points. -/
theorem storeIsVisibleToFetch : Obligations.StoreIsVisibleToFetch := by
  intro s t b a imm hm haddr h
  obtain ⟨-, ht⟩ := store_next.mp h
  rw [haddr] at ht
  exact toNat_fetchWord_of_memWrite hm ht (by simp [ht])

/-- Settles O48: trap entry and every instruction that is no store keep the memory of the sampled state. -/
theorem onlyStoresWriteMemory : Obligations.OnlyStoresWriteMemory := by
  intro s t h hmem
  rcases step_next h with ⟨-, htrap⟩ | ⟨hint, i, hfetch, hexec⟩
  · exact absurd (trapEnter_keeps_mem htrap) hmem
  · cases hi : isStore i with
    | true => exact ⟨hint, i, hi, fetch_next.mp hfetch⟩
    | false => exact absurd (exec_keeps_mem hi hexec) hmem

/-- Settles O21: each clause is one access, at the aligned address, the pc or a vector. -/
theorem unpopulatedAccessesFault : Obligations.UnpopulatedAccessesFault := by
  refine ⟨fun s r a imm addr => ⟨?byte, ?word, ?double, ?quad⟩, fun s hint h => ?fetch, fun s hmode h => ?syscal,
    fun s hI hnow hmode h => ?interrupt⟩
  case byte | word | double | quad =>
    rintro rfl h
    exact ⟨load_of_not_backs h, store_of_not_backs h⟩
  case fetch => exact step_of_fetch_fault (takesInterrupt_eq_false_iff.mpr hint) (fetch_of_not_backs h)
  case syscal => exact trapEnter_of_not_backs (v := .software) hmode h
  case interrupt =>
    have htakes : s.takesInterrupt = true := Bool.and_eq_true_iff.mpr ⟨hI, hnow⟩
    rw [step_of_takesInterrupt htakes]
    exact trapEnter_of_not_backs (v := .hardware) hmode h

end Sys2Proof.Proofs

/-! SUPPORT. The family `30_encoding.md`: when a word decodes, what each opcode and function value can select, the word
of each format put together again from its fields, and the words that do not decode. -/

namespace Sys2Proof

/-! When a word decodes (R107) -/

theorem admitInstr_eq_ok_iff {c : Config} {w : Insn} {i j : Instr} :
    admitInstr c w j = .ok i ↔
      j = i ∧ (c.unusedBits = .mustBeZero → w &&& i.format.unused c.pbLayout = 0) ∧ c.has i.extension = true := by
  unfold admitInstr
  split
  next hunused =>
    refine iff_of_false (by simp) ?_
    rintro ⟨rfl, hzero, -⟩
    exact hunused.2 (hzero hunused.1)
  next hunused =>
    have hzero : c.unusedBits = .mustBeZero → w &&& j.format.unused c.pbLayout = 0 := by simpa using hunused
    split
    next hext =>
      simp only [Except.ok.injEq]
      exact ⟨fun e => e ▸ ⟨rfl, hzero, hext⟩, fun e => e.1⟩
    next hext =>
      refine iff_of_false (by simp) ?_
      rintro ⟨rfl, -, hpresent⟩
      exact hext hpresent

/-- A word decodes to the instruction that its opcode and function value select, where its unused bits pass (R105) and
the extension is present (R113). -/
theorem decode_eq_ok_iff {c : Config} {w : Insn} {i : Instr} :
    decode c w = .ok i ↔
      selectInstr c.pbLayout w = .ok i ∧ (c.unusedBits = .mustBeZero → w &&& i.format.unused c.pbLayout = 0) ∧
        c.has i.extension = true := by
  unfold decode
  cases selectInstr c.pbLayout w with
  | ok j => simp only [admitInstr_eq_ok_iff, Except.ok.injEq]
  | error r => simp

theorem Instr.wellFormed_iff {c : Config} {i : Instr} :
    i.wellFormed c = true ↔ c.has i.extension = true ∧ i.statusBitFits c = true := Bool.and_eq_true_iff

/-! The word of an instruction decodes -/

/-- The opcode and the function value of an instruction's word select it (R108, R109). -/
theorem selectInstr_encode {c : Config} {i : Instr} (h : i.statusBitFits c = true) :
    selectInstr c.pbLayout (encode c i) = .ok i := by
  cases i with
  | syscal | urt | jmp imm | irj a imm | lui d imm | luiUU d imm | luiLU d imm => simp [encode, selectInstr]
  | add d a b | sub d a b | and d a b | or d a b | xor d a b | shr d a b | asr d a b | shl d a b | asl d a b
  | cch d a b | bch d a b | mul d a b | div d a b | mod d a b => simp [encode, selectInstr, selectRRR, selected]
  | addi d a imm | subi d a imm | andi d a imm | ori d a imm | xori d a imm | shri d a imm | asri d a imm
  | shli d a imm | asli d a imm | cchi d a imm | bchi d a imm | muli d a imm | divi d a imm | modi d a imm =>
    simp [encode, selectInstr, selectRRI, selected]
  | stb b a imm | stw b a imm | std b a imm | stq b a imm => simp [encode, selectInstr, selectStore, selected]
  | ldb d a imm | ldw d a imm | ldd d a imm | ldq d a imm => simp [encode, selectInstr, selectLoad, selected]
  | jeq a b imm | jlt a b imm | jslt a b imm | jsv a b imm | jne a b imm | jge a b imm | jsge a b imm | jnsv a b imm =>
    simp [encode, selectInstr, selectJump, selected]
  | ssb n | csb n =>
    have hn : c.pbLayout.admits n = true := h
    simp [encode, selectInstr, selectPB, selected, f1Of_encPB, fn2Of_encPB _ _ _ _ hn]

theorem encRRR_unused (op : BitVec 5) (fn : BitVec 4) (c a b : Reg) : encRRR op fn c a b &&& 0x000000FF = 0 := by
  change (op ++ c.field ++ a.field ++ fn ++ b.field ++ 0#8 : BitVec (5 + 5 + 5 + 4 + 5 + 8)) &&&
    (0#5 ++ 0#5 ++ 0#5 ++ 0#4 ++ 0#5 ++ 0xFF#8) = _
  simp only [BitVec.and_append, BitVec.and_zero]
  rfl

theorem encN_unused (op : BitVec 5) : encN op &&& 0x07FFFFFF = 0 := by
  change (op ++ 0#27 : BitVec (5 + 27)) &&& (0#5 ++ 0x07FFFFFF#27) = _
  simp only [BitVec.and_append, BitVec.and_zero]
  rfl

theorem encPB_unused (l : PbLayout) (op n : BitVec 5) (f : BitVec 4) :
    encPB l op n f &&& Format.unused l .pb = 0 := by
  cases l with
  | packed =>
    change (op ++ n.extractLsb' 0 4 ++ f.extractLsb' 0 1 ++ 0#22 : BitVec (5 + 4 + 1 + 22)) &&&
      (0#5 ++ 0#4 ++ 0#1 ++ 0x3FFFFF#22) = _
    simp only [BitVec.and_append, BitVec.and_zero]
    rfl
  | spread =>
    change (op ++ n ++ 0#5 ++ f ++ 0#13 : BitVec (5 + 5 + 5 + 4 + 13)) &&&
      (0#5 ++ 0#5 ++ 0x1F#5 ++ 0#4 ++ 0x1FFF#13) = _
    simp only [BitVec.and_append, BitVec.and_zero]
    rfl

/-- The encoder leaves zero every bit that no field of the format covers (R105). -/
theorem encode_unused (c : Config) (i : Instr) : encode c i &&& i.format.unused c.pbLayout = 0 := by
  cases i with
  | add d a b | sub d a b | and d a b | or d a b | xor d a b | shr d a b | asr d a b | shl d a b | asl d a b
  | cch d a b | bch d a b | mul d a b | div d a b | mod d a b => exact encRRR_unused _ _ _ _ _
  | syscal | urt => exact encN_unused _
  | ssb n | csb n => exact encPB_unused _ _ _ _
  | _ => exact BitVec.and_zero

theorem decode_encode {c : Config} {i : Instr} (h : i.wellFormed c = true) : decode c (encode c i) = .ok i := by
  obtain ⟨hext, hbit⟩ := Instr.wellFormed_iff.mp h
  exact decode_eq_ok_iff.mpr ⟨selectInstr_encode hbit, fun _ => encode_unused c i, hext⟩

theorem decode_of_encode_eq {c : Config} {i : Instr} {w : Insn} (h : i.wellFormed c = true) (hw : encode c i = w) :
    decode c w = .ok i := hw ▸ decode_encode h

/-! What a function value selects (R109) -/

/-- The format and the extension of a row of opcode 0x00 or 0x01. -/
def aluRow (f : Format) (fn : Nat) : Option (Format × Extension) :=
  if fn < 0xB then some (f, .base) else if fn < 0xE then some (f, .mulDiv) else none

/-- The format and the extension of a row of opcode 0x03 or 0x04. -/
def accessRow (f : Format) (fn : Nat) : Option (Format × Extension) :=
  if fn < 0x3 then some (f, .base) else if fn = 0x3 then some (f, .q64) else none

/-- The format and the extension of a row of opcode 0x07. -/
def jumpRow (fn : Nat) : Option (Format × Extension) :=
  if fn < 0x8 then some (.rri2, .base) else none

/-- The format and the extension that R108 and R109 give an opcode and a function value; of opcode 0x0A, whose function
value stands elsewhere, those of both its instructions. -/
def opcodeRow (op fn : Nat) : Option (Format × Extension) :=
  match op with
  | 0x00 => aluRow .rrr fn
  | 0x01 => aluRow .rri fn
  | 0x02 => some (.ri, .base)
  | 0x03 => accessRow .rri2 fn
  | 0x04 => accessRow .rri fn
  | 0x05 => some (.ri2, .base)
  | 0x06 => some (.i, .base)
  | 0x07 => jumpRow fn
  | 0x08 | 0x09 => some (.n, .base)
  | 0x0A => some (.pb, .base)
  | 0x0B | 0x0C => some (.ri, .q64)
  | _ => none

theorem selectRRR_eq_some {fn : BitVec 4} {c a b : Reg} {i : Instr} (h : selectRRR fn c a b = some i) :
    aluRow .rrr fn.toNat = some (i.format, i.extension) ∧ ∀ cfg, encode cfg i = encRRR 0x00 fn c a b := by
  unfold selectRRR at h
  split at h <;> cases h
  all_goals
    next hfn =>
    exact ⟨by rw [hfn]; rfl, fun _ => congrArg (encRRR 0x00 · c a b) (BitVec.eq_of_toNat_eq hfn.symm)⟩

theorem selectRRI_eq_some {fn : BitVec 4} {c a : Reg} {imm : BitVec 13} {i : Instr}
    (h : selectRRI fn c a imm = some i) :
    aluRow .rri fn.toNat = some (i.format, i.extension) ∧ ∀ cfg, encode cfg i = encRRI 0x01 fn c a imm := by
  unfold selectRRI at h
  split at h <;> cases h
  all_goals
    next hfn =>
    exact ⟨by rw [hfn]; rfl, fun _ => congrArg (encRRI 0x01 · c a imm) (BitVec.eq_of_toNat_eq hfn.symm)⟩

theorem selectStore_eq_some {fn : BitVec 4} {b a : Reg} {imm : BitVec 13} {i : Instr}
    (h : selectStore fn b a imm = some i) :
    accessRow .rri2 fn.toNat = some (i.format, i.extension) ∧ ∀ cfg, encode cfg i = encRRI2 0x03 fn a b imm := by
  unfold selectStore at h
  split at h <;> cases h
  all_goals
    next hfn =>
    exact ⟨by rw [hfn]; rfl, fun _ => congrArg (encRRI2 0x03 · a b imm) (BitVec.eq_of_toNat_eq hfn.symm)⟩

theorem selectLoad_eq_some {fn : BitVec 4} {c a : Reg} {imm : BitVec 13} {i : Instr}
    (h : selectLoad fn c a imm = some i) :
    accessRow .rri fn.toNat = some (i.format, i.extension) ∧ ∀ cfg, encode cfg i = encRRI 0x04 fn c a imm := by
  unfold selectLoad at h
  split at h <;> cases h
  all_goals
    next hfn =>
    exact ⟨by rw [hfn]; rfl, fun _ => congrArg (encRRI 0x04 · c a imm) (BitVec.eq_of_toNat_eq hfn.symm)⟩

theorem selectJump_eq_some {fn : BitVec 4} {a b : Reg} {imm : BitVec 13} {i : Instr}
    (h : selectJump fn a b imm = some i) :
    jumpRow fn.toNat = some (i.format, i.extension) ∧ ∀ cfg, encode cfg i = encRRI2 0x07 fn a b imm := by
  unfold selectJump at h
  split at h <;> cases h
  all_goals
    next hfn =>
    exact ⟨by rw [hfn]; rfl, fun _ => congrArg (encRRI2 0x07 · a b imm) (BitVec.eq_of_toNat_eq hfn.symm)⟩

theorem selectPB_eq_some {f : BitVec 4} {n : BitVec 5} {i : Instr} (h : selectPB f n = some i) :
    (i.format, i.extension) = (.pb, .base) ∧ i.statusBit? = some n ∧
      ∀ cfg, encode cfg i = encPB cfg.pbLayout 0x0A n f := by
  unfold selectPB at h
  split at h <;> cases h
  all_goals
    next hf =>
    exact ⟨rfl, rfl, fun cfg => congrArg (encPB cfg.pbLayout 0x0A n) (BitVec.eq_of_toNat_eq hf.symm)⟩

theorem selected_eq_ok_iff {op : BitVec 5} {fn : BitVec 4} {o : Option Instr} {i : Instr} :
    selected op fn o = .ok i ↔ o = some i := by
  cases o <;> simp [selected]


/-! A word put together again from its fields (R94 to R102) -/

/-- The fields of formats RRR and RRI2. -/
theorem append_fields_eq (w : Insn) :
    (opcodeOf w ++ w.extractLsb' 22 5 ++ w.extractLsb' 17 5 ++ fn1Of w ++ w.extractLsb' 8 5 ++
      w.extractLsb' 0 8 : Insn) = w := by
  apply BitVec.eq_of_toNat_eq
  simp only [opcodeOf, fn1Of, BitVec.extractLsb'_toNat, toNat_append_eq, Nat.shiftRight_eq_div_pow, Nat.reducePow]
  omega

/-- The fields of format PB in the default layout. -/
theorem append_packed_fields_eq (w : Insn) :
    (opcodeOf w ++ w.extractLsb' 23 4 ++ w.extractLsb' 22 1 ++ w.extractLsb' 0 22 : Insn) = w := by
  apply BitVec.eq_of_toNat_eq
  simp only [opcodeOf, BitVec.extractLsb'_toNat, toNat_append_eq, Nat.shiftRight_eq_div_pow, Nat.reducePow]
  omega

theorem encRRI_fields (w : Insn) : encRRI (opcodeOf w) (fn1Of w) (fieldC w) (fieldA w) (immRRI w) = w := by
  apply BitVec.eq_of_toNat_eq
  simp only [encRRI, opcodeOf, fn1Of, fieldC, fieldA, immRRI, field_regOfField, BitVec.extractLsb'_toNat,
    toNat_append_eq, Nat.shiftRight_eq_div_pow, Nat.reducePow]
  omega

theorem encRI_fields (w : Insn) : encRI (opcodeOf w) (fieldC w) (immRI w) = w := by
  apply BitVec.eq_of_toNat_eq
  simp only [encRI, opcodeOf, fieldC, immRI, field_regOfField, BitVec.extractLsb'_toNat, toNat_append_eq,
    Nat.shiftRight_eq_div_pow, Nat.reducePow]
  omega

theorem encI_fields (w : Insn) : encI (opcodeOf w) (immI w) = w := by
  apply BitVec.eq_of_toNat_eq
  simp only [encI, opcodeOf, immI, BitVec.extractLsb'_toNat, toNat_append_eq, Nat.shiftRight_eq_div_pow, Nat.reducePow]
  omega

theorem encRRI2_fields (w : Insn) : encRRI2 (opcodeOf w) (fn1Of w) (fieldA w) (fieldB w) (immRRI2 w) = w := by
  simp only [encRRI2, immRRI2, fieldA, fieldB, field_regOfField, BitVec.extractLsb'_append_eq_left,
    BitVec.extractLsb'_append_eq_right]
  exact append_fields_eq w

theorem encRI2_fields (w : Insn) : encRI2 (opcodeOf w) (fieldA w) (immRI2 w) = w := by
  apply BitVec.eq_of_toNat_eq
  simp only [encRI2, immRI2, fieldA, field_regOfField, BitVec.extractLsb'_append_eq_left,
    BitVec.extractLsb'_append_eq_right, opcodeOf, BitVec.extractLsb'_toNat, toNat_append_eq,
    Nat.shiftRight_eq_div_pow, Nat.reducePow]
  omega

theorem encRRR_fields (w : Insn) :
    encRRR (opcodeOf w) (fn1Of w) (fieldC w) (fieldA w) (fieldB w) = w &&& ~~~0x000000FF#32 := by
  conv => rhs; rw [← append_fields_eq w]
  change _ =
    (opcodeOf w ++ w.extractLsb' 22 5 ++ w.extractLsb' 17 5 ++ fn1Of w ++ w.extractLsb' 8 5 ++ w.extractLsb' 0 8 :
      BitVec (5 + 5 + 5 + 4 + 5 + 8)) &&&
    (BitVec.allOnes 5 ++ BitVec.allOnes 5 ++ BitVec.allOnes 5 ++ BitVec.allOnes 4 ++ BitVec.allOnes 5 ++ 0#8)
  simp only [encRRR, fieldC, fieldA, fieldB, field_regOfField, BitVec.and_append, BitVec.and_allOnes, BitVec.and_zero]
  rfl

theorem encN_fields (w : Insn) : encN (opcodeOf w) = w &&& ~~~0x07FFFFFF#32 := by
  conv => rhs; rw [← encI_fields w]
  change _ = (opcodeOf w ++ immI w : BitVec (5 + 27)) &&& (BitVec.allOnes 5 ++ 0#27)
  simp only [BitVec.and_append, BitVec.and_allOnes, BitVec.and_zero]
  rfl

/-- The low bits of a widened field are the field. -/
theorem extractLsb'_zero_setWidth {n m : Nat} (x : BitVec n) (h : n ≤ m) : (x.setWidth m).extractLsb' 0 n = x := by
  rw [← BitVec.setWidth_eq_extractLsb' h, BitVec.setWidth_setWidth_of_le _ h, BitVec.setWidth_eq]

theorem encPB_fields (l : PbLayout) (w : Insn) :
    encPB l (opcodeOf w) (fn2Of l w) (f1Of l w) = w &&& ~~~Format.unused l .pb := by
  cases l with
  | packed =>
    conv => rhs; rw [← append_packed_fields_eq w]
    change _ =
      (opcodeOf w ++ w.extractLsb' 23 4 ++ w.extractLsb' 22 1 ++ w.extractLsb' 0 22 : BitVec (5 + 4 + 1 + 22)) &&&
      (BitVec.allOnes 5 ++ BitVec.allOnes 4 ++ BitVec.allOnes 1 ++ 0#22)
    have hn : (fn2Of .packed w).extractLsb' 0 4 = w.extractLsb' 23 4 := extractLsb'_zero_setWidth _ (by decide)
    have hf : (f1Of .packed w).extractLsb' 0 1 = w.extractLsb' 22 1 := extractLsb'_zero_setWidth _ (by decide)
    simp only [encPB, hn, hf, BitVec.and_append, BitVec.and_allOnes, BitVec.and_zero]
    rfl
  | spread =>
    conv => rhs; rw [← encRRI_fields w]
    change _ =
      (opcodeOf w ++ (fieldC w).field ++ (fieldA w).field ++ fn1Of w ++ immRRI w : BitVec (5 + 5 + 5 + 4 + 13)) &&&
      (BitVec.allOnes 5 ++ BitVec.allOnes 5 ++ 0#5 ++ BitVec.allOnes 4 ++ 0#13)
    simp only [fieldC, field_regOfField, BitVec.and_append, BitVec.and_allOnes, BitVec.and_zero]
    rfl

/-! What a word that selects an instruction is (R107 to R109) -/

theorem aluRow_eq_some {f g : Format} {fn : Nat} {e : Extension} (h : aluRow f fn = some (g, e)) :
    g = f ∧ fn < 0xE ∧ (0xB ≤ fn → e = .mulDiv) := by
  unfold aluRow at h
  split at h
  · cases h; exact ⟨rfl, by omega, by omega⟩
  · split at h <;> cases h
    exact ⟨rfl, by omega, fun _ => rfl⟩

theorem accessRow_eq_some {f g : Format} {fn : Nat} {e : Extension} (h : accessRow f fn = some (g, e)) :
    g = f ∧ fn < 0x4 ∧ (fn = 0x3 → e = .q64) := by
  unfold accessRow at h
  split at h
  · cases h; exact ⟨rfl, by omega, by omega⟩
  · split at h <;> cases h
    exact ⟨rfl, by omega, fun _ => rfl⟩

theorem jumpRow_eq_some {fn : Nat} {g : Format} {e : Extension} (h : jumpRow fn = some (g, e)) :
    g = .rri2 ∧ fn < 0x8 := by
  unfold jumpRow at h
  split at h <;> cases h
  exact ⟨rfl, by omega⟩

/-- Only SSB and CSB name a status bit, and only they have format PB. -/
theorem Instr.statusBit?_of_format_ne {i : Instr} (h : i.format ≠ .pb) : i.statusBit? = none := by
  cases i with
  | ssb n | csb n => exact absurd rfl h
  | _ => rfl

/-- In either layout the field FN2 holds only numbers that fit it. -/
theorem PbLayout.admits_fn2Of (l : PbLayout) (w : Insn) : l.admits (fn2Of l w) = true := by
  cases l with
  | packed =>
    have hlt := (w.extractLsb' 23 4).isLt
    simp only [PbLayout.admits, fn2Of, BitVec.toNat_setWidth, decide_eq_true_eq]
    omega
  | spread => rfl

theorem Instr.statusBitFits_of_format_ne {i : Instr} (h : i.format ≠ .pb) (c : Config) : i.statusBitFits c = true := by
  rw [Instr.statusBitFits, Instr.statusBit?_of_format_ne h]

/-- What a word says that selects an instruction: its row of the opcode table is the instruction's, a status bit it
names fits its field, and in the bits that fields cover it is the instruction's word. -/
structure Spells (c : Config) (w : Insn) (i : Instr) : Prop where
  row : opcodeRow (opcodeOf w).toNat (fn1Of w).toNat = some (i.format, i.extension)
  fits : i.statusBitFits c = true
  word : encode c i = w &&& ~~~i.format.unused c.pbLayout

/-- The formats whose fields cover every bit: all but RRR, N and PB. -/
theorem Spells.of_no_unused {c : Config} {w : Insn} {i : Instr} {op : BitVec 5} (hop : (opcodeOf w).toNat = op.toNat)
    (hrow : opcodeRow op.toNat (fn1Of w).toNat = some (i.format, i.extension))
    (hunused : i.format.unused c.pbLayout = 0) (hword : op = opcodeOf w → encode c i = w) : Spells c w i where
  row := by rw [hop, hrow]
  fits := by
    refine Instr.statusBitFits_of_format_ne (fun hpb => ?_) c
    rw [hpb] at hunused
    cases hl : c.pbLayout <;> simp [hl, Format.unused] at hunused
  word := by
    rw [hword (BitVec.eq_of_toNat_eq hop.symm), hunused]
    exact BitVec.and_allOnes.symm

/-- One case for each opcode (R108), through the select function of its column where it has one (R109). -/
theorem spells_of_selectInstr {c : Config} {w : Insn} {i : Instr} (h : selectInstr c.pbLayout w = .ok i) :
    Spells c w i := by
  unfold selectInstr at h
  split at h
  case h_1 hop =>
    obtain ⟨hrow, henc⟩ := selectRRR_eq_some (selected_eq_ok_iff.mp h)
    obtain ⟨hf, -⟩ := aluRow_eq_some hrow
    have hop' : (0x00 : BitVec 5) = opcodeOf w := BitVec.eq_of_toNat_eq hop.symm
    exact ⟨by rw [hop]; exact hrow, Instr.statusBitFits_of_format_ne (by simp [hf]) c,
      by rw [henc, hf, hop']; exact encRRR_fields w⟩
  case h_2 hop =>
    obtain ⟨hrow, henc⟩ := selectRRI_eq_some (selected_eq_ok_iff.mp h)
    obtain ⟨hf, -⟩ := aluRow_eq_some hrow
    exact .of_no_unused (op := 0x01) hop hrow (by rw [hf]; rfl) fun e => by rw [henc, e, encRRI_fields]
  case h_3 hop =>
    cases h
    exact .of_no_unused (op := 0x02) hop rfl rfl fun e => by rw [encode, e, encRI_fields]
  case h_4 hop =>
    obtain ⟨hrow, henc⟩ := selectStore_eq_some (selected_eq_ok_iff.mp h)
    obtain ⟨hf, -⟩ := accessRow_eq_some hrow
    exact .of_no_unused (op := 0x03) hop hrow (by rw [hf]; rfl) fun e => by rw [henc, e, encRRI2_fields]
  case h_5 hop =>
    obtain ⟨hrow, henc⟩ := selectLoad_eq_some (selected_eq_ok_iff.mp h)
    obtain ⟨hf, -⟩ := accessRow_eq_some hrow
    exact .of_no_unused (op := 0x04) hop hrow (by rw [hf]; rfl) fun e => by rw [henc, e, encRRI_fields]
  case h_6 hop =>
    cases h
    exact .of_no_unused (op := 0x05) hop rfl rfl fun e => by rw [encode, e, encRI2_fields]
  case h_7 hop =>
    cases h
    exact .of_no_unused (op := 0x06) hop rfl rfl fun e => by rw [encode, e, encI_fields]
  case h_8 hop =>
    obtain ⟨hrow, henc⟩ := selectJump_eq_some (selected_eq_ok_iff.mp h)
    obtain ⟨hf, -⟩ := jumpRow_eq_some hrow
    exact .of_no_unused (op := 0x07) hop hrow (by rw [hf]; rfl) fun e => by rw [henc, e, encRRI2_fields]
  case h_9 hop =>
    cases h
    have hop' : (0x08 : BitVec 5) = opcodeOf w := BitVec.eq_of_toNat_eq hop.symm
    exact ⟨by rw [hop]; rfl, rfl, by rw [encode, hop']; exact encN_fields w⟩
  case h_10 hop =>
    cases h
    have hop' : (0x09 : BitVec 5) = opcodeOf w := BitVec.eq_of_toNat_eq hop.symm
    exact ⟨by rw [hop]; rfl, rfl, by rw [encode, hop']; exact encN_fields w⟩
  case h_11 hop =>
    obtain ⟨hrow, hbit, henc⟩ := selectPB_eq_some (selected_eq_ok_iff.mp h)
    have hf : i.format = .pb := congrArg Prod.fst hrow
    have hop' : (0x0A : BitVec 5) = opcodeOf w := BitVec.eq_of_toNat_eq hop.symm
    exact ⟨by rw [hop, hrow]; rfl, by rw [Instr.statusBitFits, hbit]; exact PbLayout.admits_fn2Of _ w,
      by rw [henc, hf, hop', encPB_fields]⟩
  case h_12 hop =>
    cases h
    exact .of_no_unused (op := 0x0B) hop rfl rfl fun e => by rw [encode, e, encRI_fields]
  case h_13 hop =>
    cases h
    exact .of_no_unused (op := 0x0C) hop rfl rfl fun e => by rw [encode, e, encRI_fields]
  case h_14 => cases h

/-- With its unused bits zero, a word that selects an instruction is that instruction's word. -/
theorem Spells.encode_eq {c : Config} {w : Insn} {i : Instr} (h : Spells c w i)
    (hunused : w &&& i.format.unused c.pbLayout = 0) : encode c i = w := by
  calc encode c i = w &&& ~~~i.format.unused c.pbLayout := h.word
    _ = w &&& i.format.unused c.pbLayout ||| w &&& ~~~i.format.unused c.pbLayout := by
      rw [hunused]
      exact BitVec.zero_or.symm
    _ = w := by rw [← BitVec.and_or_distrib_left, BitVec.or_not_self, BitVec.and_allOnes]

/-! The row of the opcode table and the low bits, as numbers -/

theorem toNat_opcodeOf (w : Insn) : (opcodeOf w).toNat = w.toNat / 2 ^ 27 := by
  have := w.isLt
  simp only [opcodeOf, BitVec.extractLsb'_toNat, Nat.shiftRight_eq_div_pow]
  omega

theorem toNat_fn1Of (w : Insn) : (fn1Of w).toNat = w.toNat / 2 ^ 13 % 2 ^ 4 := by
  simp only [fn1Of, BitVec.extractLsb'_toNat, Nat.shiftRight_eq_div_pow]

/-- The unused bits of formats RRR, N and packed PB are the low bits of the word (R105). -/
theorem mod_eq_zero_of_and_low_ones {w : Insn} {k : Nat} (hk : k ≤ 32) (h : w &&& BitVec.ofNat 32 (2 ^ k - 1) = 0) :
    w.toNat % 2 ^ k = 0 := by
  have hpow : 2 ^ k ≤ 2 ^ 32 := Nat.pow_le_pow_right (by decide) hk
  have hpos : 0 < 2 ^ k := Nat.two_pow_pos k
  have hnat := congrArg BitVec.toNat h
  rwa [BitVec.toNat_and, BitVec.toNat_ofNat, Nat.mod_eq_of_lt (by omega), Nat.and_two_pow_sub_one_eq_mod] at hnat

section Rows

variable {op fn : Nat} {f : Format} {e : Extension}

theorem opcode_lt_of_row (h : opcodeRow op fn = some (f, e)) : op < 0x0D := by
  unfold opcodeRow at h
  split at h
  case h_14 => cases h
  all_goals decide

theorem fn1_of_row_alu (hop : op = 0x00 ∨ op = 0x01) (h : opcodeRow op fn = some (f, e)) :
    fn < 0xE ∧ (0xB ≤ fn → e = .mulDiv) := by
  rcases hop with rfl | rfl
  · exact (aluRow_eq_some h).2
  · exact (aluRow_eq_some h).2

theorem fn1_of_row_access (hop : op = 0x03 ∨ op = 0x04) (h : opcodeRow op fn = some (f, e)) :
    fn < 0x4 ∧ (fn = 0x3 → e = .q64) := by
  rcases hop with rfl | rfl
  · exact (accessRow_eq_some h).2
  · exact (accessRow_eq_some h).2

theorem extension_of_row_q64 (hop : ((op = 0x03 ∨ op = 0x04) ∧ fn = 0x3) ∨ op = 0x0B ∨ op = 0x0C)
    (h : opcodeRow op fn = some (f, e)) : e = .q64 := by
  rcases hop with ⟨hop, hfn⟩ | rfl | rfl
  · exact (fn1_of_row_access hop h).2 hfn
  · cases h; rfl
  · cases h; rfl

theorem format_of_row_n (hop : op = 0x08 ∨ op = 0x09) (h : opcodeRow op fn = some (f, e)) : f = .n := by
  rcases hop with rfl | rfl <;> cases h <;> rfl

end Rows

end Sys2Proof

namespace Sys2Proof.Machine

/-! The step that fetches a reserved word (R111) -/

theorem fetch_of_decode_error {s : State} {why : Reserved} (hbacks : backs s.cfg s.pc 4 = true)
    (h : decode s.cfg (fetchWord s) = .error why) : fetch s = .refused (.reservedEncoding why) := by
  simp only [fetch, access_of_backs hbacks, h]

theorem step_of_fetch_refused {s : State} {r : Refusal} (hint : s.takesInterrupt = false)
    (hfetch : fetch s = .refused r) : step s = .refused r := by
  simp [step, hint, hfetch]

end Sys2Proof.Machine

namespace Sys2Proof.Proofs

open Sys2Proof.Machine Sys2Proof.Spec

/-- Settles O10: the word selects the instruction, its unused bits are zero, and the extension is present. -/
theorem decodeEncodeRoundTrip : Obligations.DecodeEncodeRoundTrip := fun _ _ h => decode_encode h

/-- Settles O11: a word with its unused bits zero is its fields. -/
theorem encodeDecodeRoundTrip : Obligations.EncodeDecodeRoundTrip := by
  intro c w i hmode h
  obtain ⟨hselect, hunused, hext⟩ := decode_eq_ok_iff.mp h
  have hspells := spells_of_selectInstr hselect
  exact ⟨Instr.wellFormed_iff.mpr ⟨hext, hspells.fits⟩, hspells.encode_eq (hunused hmode)⟩

/-- Settles O12, by the round trip: each word is the encoding of its instruction. -/
theorem sampleWordsDecode : Obligations.SampleWordsDecode :=
  ⟨decode_of_encode_eq rfl rfl, decode_of_encode_eq rfl rfl, decode_of_encode_eq rfl rfl, decode_of_encode_eq rfl rfl,
    decode_of_encode_eq rfl rfl, decode_of_encode_eq rfl rfl, decode_of_encode_eq rfl rfl, decode_of_encode_eq rfl rfl,
    decode_of_encode_eq rfl rfl, decode_of_encode_eq rfl rfl, decode_of_encode_eq rfl rfl⟩

/-- Settles O13: an instruction the word decoded to would have the word's row of the opcode table, an extension that is
present, and zero unused bits; every class of reserved words lacks one of these. -/
theorem reservedEncodingsRefused : Obligations.ReservedEncodingsRefused := by
  refine ⟨?_, fun s why hint hbacks hdecode => step_of_fetch_refused (takesInterrupt_eq_false_iff.mpr hint)
    (fetch_of_decode_error hbacks hdecode)⟩
  intro c w op fn hreserved
  cases hdecode : decode c w with
  | error why => exact ⟨why, rfl⟩
  | ok i =>
    exfalso
    obtain ⟨hselect, hunused, hext⟩ := decode_eq_ok_iff.mp hdecode
    have hrow : opcodeRow op fn = some (i.format, i.extension) := by
      have hspelled := (spells_of_selectInstr hselect).row
      rwa [toNat_opcodeOf, toNat_fn1Of] at hspelled
    rcases hreserved with hop | ⟨hop, hfn⟩ | ⟨hop, hfn⟩ | ⟨hop, hfn⟩ | ⟨habsent, hop, hfn⟩ | ⟨habsent, hop⟩ |
      ⟨hmode, hop, hbits⟩ | ⟨hmode, hop, hbits⟩ | ⟨hmode, hlayout, hop, hbits⟩
    · have := opcode_lt_of_row hrow
      omega
    · have := (fn1_of_row_alu hop hrow).1
      omega
    · have := (fn1_of_row_access hop hrow).1
      omega
    · rw [hop] at hrow
      have := (jumpRow_eq_some hrow).2
      omega
    · rw [(fn1_of_row_alu hop hrow).2 hfn, Config.has, habsent] at hext
      cases hext
    · rw [extension_of_row_q64 hop hrow, Config.has, habsent] at hext
      cases hext
    · rw [hop] at hrow
      have hzero := hunused hmode
      rw [(aluRow_eq_some hrow).1] at hzero
      exact hbits (mod_eq_zero_of_and_low_ones (by decide) hzero)
    · have hzero := hunused hmode
      rw [format_of_row_n hop hrow] at hzero
      exact hbits (mod_eq_zero_of_and_low_ones (by decide) hzero)
    · rw [hop] at hrow
      have hformat : i.format = .pb := congrArg Prod.fst (Option.some.inj hrow).symm
      have hzero := hunused hmode
      rw [hformat, hlayout] at hzero
      exact hbits (mod_eq_zero_of_and_low_ones (by decide) hzero)

end Sys2Proof.Proofs

/-! SUPPORT. The family `40_lui_load_store.md`: a word of format RI or RRI2 as a number, effective addresses, a loaded value
in the register, and what a store and a load give. -/

namespace Sys2Proof.Spec

/-! Words as numbers (R94, R99) -/

theorem toNat_field (r : Reg) : r.field.toNat = regNum r := by
  cases r with
  | gpr k => revert k; decide
  | zr | ir | ip | sr => rfl

theorem toNat_encRI (op : BitVec 5) (c : Reg) (imm : BitVec 22) : (encRI op c imm).toNat = wordRI op.toNat c imm := by
  simp only [encRI, wordRI, toNat_append_eq, toNat_field]
  omega

theorem toNat_encRRI2 (op : BitVec 5) (fn : BitVec 4) (a b : Reg) (imm : BitVec 13) :
    (encRRI2 op fn a b imm).toNat = wordRRI2 op.toNat fn.toNat a b imm := by
  have hhigh : (imm.extractLsb' 8 5).toNat = imm.toNat / 2 ^ 8 := by
    have := imm.isLt
    simp only [BitVec.extractLsb'_toNat, Nat.shiftRight_eq_div_pow]
    omega
  have hlow : (imm.extractLsb' 0 8).toNat = imm.toNat % 2 ^ 8 := by
    simp only [BitVec.extractLsb'_toNat, Nat.shiftRight_zero]
  simp only [encRRI2, wordRRI2, toNat_append_eq, toNat_field, hhigh, hlow]
  omega

/-! Signed numbers and addresses -/

/-- The spec's `signed_w` is the two's-complement reading of a bit vector (R10). -/
theorem signed_toNat {w : Nat} (x : BitVec w) : signed w x.toNat = x.toInt := by
  simp only [signed, BitVec.toInt_eq_msb_cond, BitVec.msb_eq_decide, decide_eq_true_eq, Int.natCast_pow, Int.cast_ofNat_Int]
  by_cases h : x.toNat < 2 ^ (w - 1)
  · rw [if_pos h, if_neg (Nat.not_le.mpr h)]
  · rw [if_neg h, if_pos (Nat.not_lt.mp h)]

/-- A 32-bit address formed from a register and a signed offset is their sum modulo 2^32, whatever the register holds above
its low half (R62, R131). -/
theorem toNat_setWidth_add_signExtend {n : Nat} (x : RegVal) (imm : BitVec n) :
    (((x + imm.signExtend 64).setWidth 32).toNat : Int) = (x.toNat + signed n imm.toNat) % 2 ^ 32 := by
  rw [signed_toNat, BitVec.toNat_setWidth, BitVec.toNat_add, BitVec.signExtend, BitVec.toNat_ofInt]
  omega

end Sys2Proof.Spec

namespace Sys2Proof.Machine

open Sys2Proof.Spec

/-! The digits of a number -/

/-- Cutting a number to `n` base-256 digits keeps each of them. -/
theorem mod_pow_div_mod (v : Nat) {n j : Nat} (hj : j < n) : v % 256 ^ n / 256 ^ j % 256 = v / 256 ^ j % 256 := by
  have hsplit : 256 ^ n = 256 ^ j * 256 ^ (n - j) := by rw [← Nat.pow_add, Nat.add_sub_cancel' (Nat.le_of_lt hj)]
  rw [hsplit, Nat.mod_mul_right_div_self, Nat.mod_mod_of_dvd _ (Nat.pow_dvd_pow 256 (by omega : 1 ≤ n - j))]

theorem pow_256_eq (n : Nat) : 256 ^ n = 2 ^ (8 * n) := (Nat.pow_mul 2 8 n).symm

/-! A loaded value in the register (R135) -/

theorem xlen_le (c : Config) : c.xlen ≤ 64 := by
  unfold Config.xlen
  split <;> decide

/-- Every access of at most 4 bytes fits a register. -/
theorem access_fits_xlen (c : Config) {n : Nat} (hn : n ≤ 4) : 8 * n ≤ c.xlen := by
  unfold Config.xlen
  split <;> omega

theorem toNat_clip (c : Config) (v : RegVal) : (clip c v).toNat = v.toNat % 2 ^ c.xlen := by
  cases h : c.hasQ64 with
  | true => rw [clip_of_q64 h, Config.xlen, if_pos h, Nat.mod_eq_of_lt v.isLt]
  | false => rw [toNat_clip_of_base h, Config.xlen, if_neg (by simp [h])]

/-- A sign extension to the widest register, cut to `XLEN`, is the sign extension to `XLEN`. -/
theorem toNat_clip_signExtend (c : Config) {w : Nat} (x : BitVec w) :
    (clip c (x.signExtend 64)).toNat = (x.signExtend c.xlen).toNat := by
  rw [toNat_clip, ← BitVec.toNat_setWidth]
  congr 1
  refine BitVec.eq_of_getLsbD_eq fun i hi => ?_
  have hxlen := xlen_le c
  have hi64 : i < 64 := by omega
  simp only [BitVec.getLsbD_setWidth, BitVec.getLsbD_signExtend, hi, hi64, decide_true, Bool.true_and]

/-- The top byte of an access is below 128 exactly where its value is below half the range. -/
theorem topByte_lt_iff (s : State) (a : Addr) {n : Nat} (hn : 0 < n) :
    (s.mem.read (byteAddr s a n (n - 1))).toNat < 128 ↔ memRead s a n < 2 ^ (8 * n - 1) := by
  obtain ⟨m, rfl⟩ : ∃ m, n = m + 1 := ⟨n - 1, by omega⟩
  have hlt : memRead s a (m + 1) / 256 ^ m < 256 :=
    Nat.div_lt_of_lt_mul (by simpa [Nat.pow_succ] using memRead_lt s a (m + 1))
  have hhalf : 2 ^ (8 * (m + 1) - 1) = 128 * 256 ^ m := by
    rw [pow_256_eq, show 8 * (m + 1) - 1 = 7 + 8 * m by omega, Nat.pow_add]
  rw [Nat.add_sub_cancel, ← memRead_div_mod s a (Nat.lt_succ_self m), Nat.mod_eq_of_lt hlt, hhalf,
    Nat.div_lt_iff_lt_mul (Nat.pow_pos (by decide))]

/-- What a load leaves in a register: the value of the access, and above it the fill of `LOAD_EXT` up to `XLEN`. -/
theorem toNat_clip_widenLoad (s : State) (a : Addr) {n : Nat} (hn : 0 < n) (hfits : 8 * n ≤ s.cfg.xlen) :
    (clip s.cfg (widenLoad s.cfg n (memRead s a n))).toNat = memRead s a n + 256 ^ n * loadUpper s a n := by
  have hlt : memRead s a n < 2 ^ (8 * n) := pow_256_eq n ▸ memRead_lt s a n
  have hpow : 2 ^ (8 * n) ≤ 2 ^ s.cfg.xlen := Nat.pow_le_pow_right (by decide) hfits
  cases hext : s.cfg.loadExt with
  | zero =>
    have hxlen : 2 ^ s.cfg.xlen ∣ 2 ^ 64 := Nat.pow_dvd_pow 2 (xlen_le s.cfg)
    rw [toNat_clip]
    simp only [widenLoad, loadUpper, hext, BitVec.toNat_ofNat, Nat.mul_zero, Nat.add_zero]
    rw [Nat.mod_mod_of_dvd _ hxlen, Nat.mod_eq_of_lt (by omega)]
  | sign =>
    have hfill : 2 ^ s.cfg.xlen - 2 ^ (8 * n) = 256 ^ n * (2 ^ (s.cfg.xlen - 8 * n) - 1) := by
      rw [pow_256_eq, Nat.mul_sub, ← Nat.pow_add, Nat.add_sub_cancel' hfits, Nat.mul_one]
    simp only [widenLoad, loadUpper, hext, toNat_clip_signExtend, BitVec.toNat_signExtend, BitVec.msb_eq_decide,
      BitVec.toNat_setWidth, BitVec.toNat_ofNat, topByte_lt_iff s a hn, hfill, Nat.mod_eq_of_lt hlt,
      Nat.mod_eq_of_lt (Nat.lt_of_lt_of_le hlt hpow), decide_eq_true_eq]
    by_cases h : memRead s a n < 2 ^ (8 * n - 1)
    · rw [if_pos h, if_neg (Nat.not_le.mpr h), Nat.mul_zero]
    · rw [if_neg h, if_pos (Nat.not_lt.mp h)]

/-! What a store and a load give -/

/-- In canonical memory the bytes just stored are the digits of the value stored (R67). -/
theorem read_byteAddr_memWrite {s : State} (a : Addr) {n j : Nat} (v : Nat) (hm : s.mem.wf = true) (hn : n ≤ 2 ^ 32)
    (hj : j < n) : ((memWrite s a n v).mem.read (byteAddr s a n j)).toNat = v / 256 ^ j % 256 :=
  calc ((memWrite s a n v).mem.read (byteAddr s a n j)).toNat
      = memRead (memWrite s a n v) a n / 256 ^ j % 256 := (memRead_div_mod (memWrite s a n v) a hj).symm
    _ = v % 256 ^ n / 256 ^ j % 256 := by rw [memRead_memWrite_same a v hm hn]
    _ = v / 256 ^ j % 256 := mod_pow_div_mod v hj

theorem storeGives_of_exec {i : Instr} {s : State} {n k : Nat} {b a : Reg} {imm : BitVec 13}
    (hexec : exec i s = store n k b a imm s) (hm : s.mem.wf = true) (hn : n ≤ 2 ^ 32)
    (hbacks : backs s.cfg (align (effAddr s a imm) k) n = true) :
    StoreGives i s (align (effAddr s a imm) k) n (s.reg b).toNat := by
  refine ⟨_, hexec.trans (store_next.mpr ⟨hbacks, rfl⟩), rfl, fun _ => rfl, rfl, rfl, rfl, rfl, fun j hj => ?bytes,
    fun x hx => ?frame⟩
  case bytes => exact read_byteAddr_memWrite _ _ hm hn hj
  case frame => exact Memory.read_writeBytes_out _ _ _ x (by simpa using hx)

theorem loadGives_of_exec {i : Instr} {s : State} {n k : Nat} {c a : Reg} {imm : BitVec 13}
    (hexec : exec i s = load n k c a imm s) (hn : 0 < n) (hfits : 8 * n ≤ s.cfg.xlen)
    (hbacks : backs s.cfg (align (effAddr s a imm) k) n = true) :
    LoadGives i s c (align (effAddr s a imm) k) n := by
  generalize haddr : align (effAddr s a imm) k = addr at hbacks
  refine ⟨_, hexec.trans (load_next.mpr ⟨haddr ▸ hbacks, rfl⟩), by simp, sameBut_setReg_advance s c _, ?_⟩
  rintro r rfl
  have hvalue : ((s.setReg (.gpr r) (widenLoad s.cfg n (memRead s addr n))).advance.reg (.gpr r)).toNat =
      memRead s addr n + 256 ^ n * loadUpper s addr n :=
    (congrArg BitVec.toNat (State.setReg_gpr_same s r _)).trans (toNat_clip_widenLoad s addr hn hfits)
  have hlt := memRead_lt s addr n
  rw [haddr, hvalue]
  refine ⟨fun j hj => ?digit, ?above⟩
  case digit =>
    rw [← mod_pow_div_mod _ hj, Nat.add_mul_mod_self_left, Nat.mod_eq_of_lt hlt, memRead_div_mod s addr hj]
  case above =>
    rw [Nat.add_mul_div_left _ _ (Nat.pow_pos (by decide)), Nat.div_eq_of_lt hlt, Nat.zero_add]

/-! LUI -/

/-- LUI's 32-bit value fits every register. -/
theorem toNat_clip_luiValue (c : Config) (imm : BitVec 22) :
    (clip c ((imm ++ (0 : BitVec 10) : BitVec 32).setWidth 64)).toNat = imm.toNat * 2 ^ 10 := by
  have hvalue : (imm ++ (0 : BitVec 10) : BitVec 32).toNat = imm.toNat * 2 ^ 10 := by
    rw [toNat_append_eq]
    simp
  have hlt : (imm ++ (0 : BitVec 10) : BitVec 32).toNat < 2 ^ c.xlen :=
    Nat.lt_of_lt_of_le (BitVec.isLt _) (Nat.pow_le_pow_right (by decide) (access_fits_xlen c (Nat.le_refl 4)))
  rw [toNat_clip, BitVec.toNat_setWidth_of_le (by decide), Nat.mod_eq_of_lt hlt, hvalue]

end Sys2Proof.Machine

namespace Sys2Proof.Proofs

open Sys2Proof.Machine Sys2Proof.Spec

/-- Settles O16: the sum of a register and a sign-extended offset, and rounding down to a multiple of 2^k. -/
theorem effectiveAddresses : Obligations.EffectiveAddresses :=
  ⟨fun s a imm => toNat_setWidth_add_signExtend (s.reg a) imm, fun x k => by
    rw [toNat_align, Nat.div_mul_self_eq_mod_sub_self]⟩

/-- Settles O17: LUI is a completed write of one register. -/
theorem loadUpperImmediate : Obligations.LoadUpperImmediate := fun s c imm =>
  ⟨toNat_encRI 0x02 c imm, gives_of_exec rfl (toNat_clip_luiValue s.cfg imm)⟩

/-- Settles O18: each is the store of its own size and alignment. -/
theorem storesWriteTheirBytes : Obligations.StoresWriteTheirBytes := by
  intro s b a imm hm
  refine ⟨⟨toNat_encRRI2 0x03 0x0 a b imm, ?byte⟩, ⟨toNat_encRRI2 0x03 0x1 a b imm, ?word⟩,
    ⟨toNat_encRRI2 0x03 0x2 a b imm, ?double⟩⟩
  case byte | word | double =>
    rintro _ rfl hbacks
    exact storeGives_of_exec rfl hm (by decide) hbacks

/-- Settles O19: each is the load of its own size and alignment, and the bytes it reads fit a register. -/
theorem loadsReadTheirBytes : Obligations.LoadsReadTheirBytes := by
  intro s c a imm
  refine ⟨?byte, ?word, ?double⟩
  case byte | word | double =>
    rintro _ rfl hbacks
    exact loadGives_of_exec rfl (by decide) (access_fits_xlen s.cfg (by decide)) hbacks

end Sys2Proof.Proofs

/-! SUPPORT. The family `41_jumps.md`: a word of format RI2 or I as a number, the conditions of a subtraction at any width,
where a jump lands, and a conditional jump at the operating width. -/

namespace Sys2Proof.Spec

open Sys2Proof.Machine

/-! Words as numbers (R95, R96) -/

theorem toNat_encRI2 (op : BitVec 5) (a : Reg) (imm : BitVec 22) : (encRI2 op a imm).toNat = wordRI2 op.toNat a imm := by
  have hhigh : (imm.extractLsb' 17 5).toNat = imm.toNat / 2 ^ 17 := by
    have := imm.isLt
    simp only [BitVec.extractLsb'_toNat, Nat.shiftRight_eq_div_pow]
    omega
  have hlow : (imm.extractLsb' 0 17).toNat = imm.toNat % 2 ^ 17 := by
    simp only [BitVec.extractLsb'_toNat, Nat.shiftRight_zero]
  simp only [encRI2, wordRI2, toNat_append_eq, toNat_field, hhigh, hlow]
  omega

theorem toNat_encI (op : BitVec 5) (imm : BitVec 27) : (encI op imm).toNat = op.toNat * 2 ^ 27 + imm.toNat :=
  toNat_append_eq op imm

/-! The conditions of a subtraction (R152) -/

theorem subZero_iff {w : Nat} (a b : BitVec w) : subZero w a b = true ↔ a.toNat = b.toNat := by
  rw [subZero, beq_iff_eq, BitVec.sub_eq_iff_eq_add, BitVec.toNat_inj, show 0 + b = b from BitVec.zero_add b]

theorem subBorrow_iff {w : Nat} (a b : BitVec w) : subBorrow w a b = true ↔ a.toNat < b.toNat := decide_eq_true_iff

theorem subSign_iff {w : Nat} (a b : BitVec w) : subSign w a b = true ↔ signBit w a.toNat b.toNat := by
  have := b.isLt
  rw [subSign, signBit, BitVec.msb_eq_decide, decide_eq_true_iff, BitVec.toNat_sub,
    show 2 ^ w - b.toNat + a.toNat = a.toNat + 2 ^ w - b.toNat by omega]

/-- The model's V, read off the top bits, is the library's out-of-range test of the true signed difference. -/
theorem subOverflow_eq_ssubOverflow {w : Nat} (a b : BitVec w) : subOverflow w a b = a.ssubOverflow b := by
  rw [subOverflow, BitVec.ssubOverflow_eq]
  cases a.msb <;> cases b.msb <;> cases (a - b).msb <;> rfl

theorem subOverflow_iff {w : Nat} (a b : BitVec w) : subOverflow w a b = true ↔ overflows w a.toNat b.toNat := by
  rw [subOverflow_eq_ssubOverflow, overflows, signed_toNat, signed_toNat, BitVec.ssubOverflow, Bool.or_eq_true,
    decide_eq_true_iff, decide_eq_true_iff, or_comm]

/-- Without an overflow the difference is exact, so its sign decides the comparison. -/
theorem subSign_iff_of_not_subOverflow {w : Nat} {a b : BitVec w} (h : subOverflow w a b = false) :
    subSign w a b = true ↔ a.toInt < b.toInt := by
  have hexact : (a - b).toInt = a.toInt - b.toInt :=
    BitVec.toInt_sub_of_not_ssubOverflow (by simp [← subOverflow_eq_ssubOverflow, h])
  rw [subSign, BitVec.msb_eq_toInt, decide_eq_true_iff, hexact]
  omega

/-- With an overflow the operands' signs differ and the difference has the sign of the second. -/
theorem subSign_iff_of_subOverflow {w : Nat} {a b : BitVec w} (h : subOverflow w a b = true) :
    subSign w a b = true ↔ ¬ a.toInt < b.toInt := by
  obtain ⟨hsigns, hflip⟩ : a.msb = !b.msb ∧ (a - b).msb = !a.msb := by simpa [subOverflow, Bool.eq_not] using h
  have hdiffer : a.toInt < 0 ↔ ¬ b.toInt < 0 := by
    rw [← decide_eq_decide, decide_not, ← BitVec.msb_eq_toInt, ← BitVec.msb_eq_toInt, hsigns]
  rw [subSign, hflip, hsigns, Bool.not_not, BitVec.msb_eq_toInt, decide_eq_true_iff]
  omega

/-! S against the signed comparison, of numbers (R158, R162) -/

theorem signBit_iff_of_not_overflows {w a b : Nat} (ha : a < 2 ^ w) (hb : b < 2 ^ w) (h : ¬ overflows w a b) :
    signBit w a b ↔ signed w a < signed w b := by
  have hv := Bool.eq_false_iff.mpr (mt (subOverflow_iff (.ofNatLT a ha) (.ofNatLT b hb)).mp h)
  have hs := subSign_iff_of_not_subOverflow hv
  rwa [subSign_iff, ← signed_toNat, ← signed_toNat] at hs

theorem signBit_iff_of_overflows {w a b : Nat} (ha : a < 2 ^ w) (hb : b < 2 ^ w) (h : overflows w a b) :
    signBit w a b ↔ ¬ signed w a < signed w b := by
  have hs := subSign_iff_of_subOverflow ((subOverflow_iff (.ofNatLT a ha) (.ofNatLT b hb)).mpr h)
  rwa [subSign_iff, ← signed_toNat, ← signed_toNat] at hs

/-! The base architecture's operands, and a jump under an equivalent condition -/

theorem width_of_base {s : State} (h : s.cfg.hasQ64 = false) : width s = 32 := by
  simp [width, State.wide_of_base h]

theorem low_lt (s : State) (r : Reg) : low s r < 2 ^ 32 := Nat.mod_lt _ (by decide)

theorem JumpsIf.congr {i : Instr} {s : State} {imm : BitVec 13} {p q : Prop} (h : JumpsIf i s imm p) (hpq : p ↔ q) :
    JumpsIf i s imm q :=
  ⟨fun hq => h.1 (hpq.mpr hq), fun hq => h.2 (mt hpq.mp hq)⟩

end Sys2Proof.Spec

namespace Sys2Proof.Machine

open Sys2Proof.Spec

/-! Where a jump lands (R150, R151) -/

theorem align_eq_landing {x : Addr} {base : Nat} {off : Int} (h : (x.toNat : Int) = (base + off) % 2 ^ 32) (k : Nat) :
    align x k = landing k base off := by
  have hle : x.toNat / 2 ^ k * 2 ^ k ≤ x.toNat := Nat.div_mul_le_self ..
  apply BitVec.eq_of_toNat_eq
  rw [toNat_align, landing, ← h, Int.toNat_natCast, BitVec.toNat_ofNat, Nat.mod_eq_of_lt (Nat.lt_of_le_of_lt hle x.isLt)]

theorem toNat_pcTarget {n : Nat} (s : State) (imm : BitVec n) :
    ((pcTarget s imm).toNat : Int) = (s.pc.toNat + signed n imm.toNat) % 2 ^ 32 := by
  rw [signed_toNat, pcTarget, BitVec.toNat_add, BitVec.signExtend, BitVec.toNat_ofInt]
  omega

theorem toNat_regTarget (s : State) (a : Reg) (imm : BitVec 22) :
    ((regTarget s a imm).toNat : Int) = ((s.reg a).toNat + signed 22 imm.toNat) % 2 ^ 32 :=
  toNat_setWidth_add_signExtend (s.reg a) imm

/-- A jump to a target that is a sum modulo 2^32 changes the pc alone, to the landing of that sum. -/
theorem jumpTo_eq_landing {s : State} {x : Addr} {base : Nat} {off : Int}
    (h : (x.toNat : Int) = (base + off) % 2 ^ 32) :
    s.jumpTo x = { s with pc := landing s.cfg.jumpIgnoredBits base off } := by
  rw [State.jumpTo, align_eq_landing h]

/-! Conditional jumps -/

/-- In either mode a condition is of the operands at the operating width (R242). -/
theorem condHolds_eq (cond : (w : Nat) → BitVec w → BitVec w → Bool) (a b : Reg) (s : State) :
    condHolds cond a b s = cond (width s) ((s.reg a).setWidth (width s)) ((s.reg b).setWidth (width s)) := by
  unfold condHolds width
  cases s.wide with
  | true => simp
  | false => rfl

section

variable {cond : (w : Nat) → BitVec w → BitVec w → Bool} {i : Instr} {s : State} {a b : Reg} {imm : BitVec 13} {w : Nat}
  {P : Nat → Nat → Prop}

/-- A conditional jump completes as `P` of its operands, read as numbers at the operating width, says. -/
theorem jumpsIf_of_condJump (hw : width s = w) (hexec : exec i s = condJump cond a b imm s)
    (hcond : ∀ x y : BitVec w, cond w x y = true ↔ P x.toNat y.toNat) :
    JumpsIf i s imm (P ((s.reg a).toNat % 2 ^ w) ((s.reg b).toNat % 2 ^ w)) := by
  subst hw
  have hholds : condHolds cond a b s = true ↔ P ((s.reg a).toNat % 2 ^ width s) ((s.reg b).toNat % 2 ^ width s) := by
    rw [condHolds_eq, hcond, BitVec.toNat_setWidth, BitVec.toNat_setWidth]
  rw [JumpsIf, ← hholds, hexec]
  refine ⟨fun htaken => ?taken, fun hnot => ?fallsThrough⟩
  case taken => rw [condJump_next.mpr (.inl ⟨htaken, rfl⟩), jumpTo_eq_landing (toNat_pcTarget s imm)]
  case fallsThrough => exact condJump_next.mpr (.inr ⟨Bool.eq_false_iff.mpr hnot, rfl⟩)

theorem jumpsIf_of_condJump_not (hw : width s = w) (hexec : exec i s = condJump (fun w x y => !cond w x y) a b imm s)
    (hcond : ∀ x y : BitVec w, cond w x y = true ↔ P x.toNat y.toNat) :
    JumpsIf i s imm (¬ P ((s.reg a).toNat % 2 ^ w) ((s.reg b).toNat % 2 ^ w)) :=
  jumpsIf_of_condJump (P := fun x y => ¬ P x y) hw hexec fun x y => by
    rw [Bool.not_eq_true', ← hcond, Bool.not_eq_true]

end

end Sys2Proof.Machine

namespace Sys2Proof.Proofs

open Sys2Proof.Machine Sys2Proof.Spec

/-- Settles O24: each target is, as a number, the sum of its base and its signed offset. -/
theorem unconditionalJumps : Obligations.UnconditionalJumps :=
  ⟨fun s a imm => ⟨toNat_encRI2 0x05 a imm, congrArg _ (jumpTo_eq_landing (toNat_regTarget s a imm))⟩,
    fun s imm => ⟨toNat_encI 0x06 imm, congrArg _ (jumpTo_eq_landing (toNat_pcTarget s imm))⟩⟩

/-- Settles O25: the four conditions as numbers, and S in the two cases of V. -/
theorem subtractionConditions : Obligations.SubtractionConditions := fun _ a b _ =>
  ⟨subZero_iff a b, subBorrow_iff a b, subSign_iff a b, subOverflow_iff a b, subSign_iff_of_not_subOverflow,
    subSign_iff_of_subOverflow⟩

/-- Settles O26: each is the conditional jump of its own condition at width 32; for JSLT and JSGE, S is restated as the
signed comparison by the two cases of V. -/
theorem conditionalJumpsInBase : Obligations.ConditionalJumpsInBase := by
  intro s a b imm hbase x y
  have hw := width_of_base hbase
  have hjslt : JumpsIf (.jslt a b imm) s imm (signBit 32 x y) :=
    jumpsIf_of_condJump (P := signBit 32) hw rfl subSign_iff
  have hjsge : JumpsIf (.jsge a b imm) s imm (¬ signBit 32 x y) :=
    jumpsIf_of_condJump_not (P := signBit 32) hw rfl subSign_iff
  have hexact : ¬ overflows 32 x y → (signBit 32 x y ↔ signed 32 x < signed 32 y) :=
    signBit_iff_of_not_overflows (low_lt s a) (low_lt s b)
  have hopposite : overflows 32 x y → (signBit 32 x y ↔ ¬ signed 32 x < signed 32 y) :=
    signBit_iff_of_overflows (low_lt s a) (low_lt s b)
  refine ⟨⟨toNat_encRRI2 0x07 0x0 a b imm, ?jeq⟩, ⟨toNat_encRRI2 0x07 0x1 a b imm, ?jlt⟩,
    ⟨toNat_encRRI2 0x07 0x2 a b imm, hjslt, fun hv => hjslt.congr (hexact hv), fun hv => hjslt.congr (hopposite hv)⟩,
    ⟨toNat_encRRI2 0x07 0x3 a b imm, ?jsv⟩, ⟨toNat_encRRI2 0x07 0x4 a b imm, ?jne⟩,
    ⟨toNat_encRRI2 0x07 0x5 a b imm, ?jge⟩,
    ⟨toNat_encRRI2 0x07 0x6 a b imm, hjsge, fun hv => hjsge.congr ?jsgeExact, fun hv => hjsge.congr ?jsgeOpposite⟩,
    ⟨toNat_encRRI2 0x07 0x7 a b imm, ?jnsv⟩⟩
  case jeq => exact jumpsIf_of_condJump (P := (· = ·)) hw rfl subZero_iff
  case jlt => exact jumpsIf_of_condJump (P := (· < ·)) hw rfl subBorrow_iff
  case jsv => exact jumpsIf_of_condJump (P := overflows 32) hw rfl subOverflow_iff
  case jne => exact jumpsIf_of_condJump_not (P := (· = ·)) hw rfl subZero_iff
  case jge => exact (jumpsIf_of_condJump_not (P := (· < ·)) hw rfl subBorrow_iff).congr Nat.not_lt
  case jsgeExact => rw [hexact hv, Int.not_lt]
  case jsgeOpposite => rw [hopposite hv, Int.not_lt]
  case jnsv => exact jumpsIf_of_condJump_not (P := overflows 32) hw rfl subOverflow_iff

end Sys2Proof.Proofs

/-! SUPPORT. The family `42_alu_register.md`: a word of format RRR as a number, the results of the ALU as numbers at any
width, and what an ALU instruction gives, at the operating width and in the base architecture. -/

namespace Sys2Proof.Spec

open Sys2Proof.Machine

/-! Words as numbers (R97) -/

theorem toNat_encRRR (op : BitVec 5) (fn : BitVec 4) (c a b : Reg) :
    (encRRR op fn c a b).toNat = wordRRR op.toNat fn.toNat c a b := by
  simp only [encRRR, wordRRR, toNat_append_eq, toNat_field, BitVec.ofNat_eq_ofNat, BitVec.toNat_ofNat]
  omega

/-! The register after a W-bit result -/

theorem widened_of_base {s : State} (h : s.cfg.hasQ64 = false) (c : Reg) (n : Nat) : widened s c n = n := by
  simp [widened, h]

theorem widened_of_wide {s : State} (h : s.wide = true) (c : Reg) (n : Nat) : widened s c n = n := if_pos h

theorem shiftCount_eq_count (s : State) (y : BitVec (width s)) : shiftCount s.cfg (width s) y = count s y.toNat := by
  unfold shiftCount count
  cases s.cfg.shiftAmount <;> rfl

/-! The sum of two-word numbers (R181) -/

/-- The high words' sum takes one more exactly where the low words' sum carries out. -/
theorem add_words_eq {x₀ y₀ : Nat} (hx : x₀ < 2 ^ 32) (hy : y₀ < 2 ^ 32) (x₁ y₁ : Nat) :
    ((x₁ + y₁) % 2 ^ 32 + if 2 ^ 32 ≤ x₀ + y₀ then 1 else 0) % 2 ^ 32 * 2 ^ 32 + (x₀ + y₀) % 2 ^ 32 =
      (x₁ * 2 ^ 32 + x₀ + (y₁ * 2 ^ 32 + y₀)) % 2 ^ 64 := by
  split <;> omega

/-! What a completed instruction leaves in the registers it does not name -/

theorem SameBut.low_eq {s t : State} {c : Reg} (h : SameBut s t c) {k : Fin 28} (hk : c ≠ .gpr k) :
    low t (.gpr k) = low s (.gpr k) := by
  rw [low, h.gpr k hk, low]

end Sys2Proof.Spec

namespace Sys2Proof.Machine

open Sys2Proof.Spec

/-! The results of the ALU as numbers (R172, R173, R177 to R182) -/

theorem toNat_aluSub {w : Nat} (x y : BitVec w) : (aluSub w x y).toNat = (x.toNat + 2 ^ w - y.toNat) % 2 ^ w := by
  have := y.isLt
  rw [aluSub, BitVec.toNat_sub, show 2 ^ w - y.toNat + x.toNat = x.toNat + 2 ^ w - y.toNat by omega]

theorem toNat_aluCch {w : Nat} (hw : 0 < w) (x y : BitVec w) :
    (aluCch w x y).toNat = if 2 ^ w ≤ x.toNat + y.toNat then 1 else 0 := by
  simp only [aluCch, addCarry, decide_eq_true_eq]
  split
  · exact BitVec.toNat_one hw
  · rfl

theorem toNat_aluBch {w : Nat} (hw : 0 < w) (x y : BitVec w) :
    (aluBch w x y).toNat = if x.toNat < y.toNat then 1 else 0 := by
  simp only [aluBch, subBorrow_iff]
  split
  · exact BitVec.toNat_one hw
  · rfl

/-- The case of a count of W or more is what the plain shift gives. -/
theorem aluShr_eq (c : Config) {w : Nat} (x y : BitVec w) : aluShr c w x y = x >>> shiftCount c w y := by
  unfold aluShr
  split
  next hn => exact (BitVec.ushiftRight_eq_zero hn).symm
  next => rfl

theorem aluShl_eq (c : Config) {w : Nat} (x y : BitVec w) : aluShl c w x y = x <<< shiftCount c w y := by
  unfold aluShl
  split
  next hn => exact (BitVec.shiftLeft_eq_zero hn).symm
  next => rfl

theorem aluAsr_eq (c : Config) {w : Nat} (x y : BitVec w) : aluAsr c w x y = x.sshiftRight (shiftCount c w y) := by
  unfold aluAsr
  split
  next hn =>
    split
    next hneg => rw [BitVec.sshiftRight_eq_of_msb_true hneg, BitVec.ushiftRight_eq_zero hn, BitVec.not_zero]
    next hpos =>
      rw [BitVec.sshiftRight_eq_of_msb_false (Bool.eq_false_iff.mpr hpos), BitVec.ushiftRight_eq_zero hn]
      rfl
  next => rfl

theorem toNat_aluShr (c : Config) {w : Nat} (x y : BitVec w) :
    (aluShr c w x y).toNat = x.toNat / 2 ^ shiftCount c w y := by
  rw [aluShr_eq, BitVec.toNat_ushiftRight, Nat.shiftRight_eq_div_pow]

theorem toNat_aluShl (c : Config) {w : Nat} (x y : BitVec w) :
    (aluShl c w x y).toNat = x.toNat * 2 ^ shiftCount c w y % 2 ^ w := by
  rw [aluShl_eq, BitVec.toNat_shiftLeft, Nat.shiftLeft_eq]

/-- Division of the signed number, rounding down (R178). -/
theorem toNat_aluAsr (c : Config) {w : Nat} (x y : BitVec w) :
    (aluAsr c w x y).toNat = (signed w x.toNat / 2 ^ shiftCount c w y % 2 ^ w).toNat := by
  rw [aluAsr_eq, BitVec.sshiftRight_eq, BitVec.toNat_ofInt, Int.shiftRight_eq_div_pow, signed_toNat,
    Int.natCast_pow, Int.natCast_pow, Int.cast_ofNat_Int]

/-! The register after an ALU instruction (R242, R243) -/

theorem toNat_fillUpper (s : State) (c : Reg) (r : BitVec 32) :
    (fillUpper s.cfg.q0Upper (s.reg c) r).toNat = r.toNat + 2 ^ 32 * upper s c r.toNat := by
  have := r.isLt
  cases h : s.cfg.q0Upper with
  | zero =>
    simp only [fillUpper, upper, h, BitVec.toNat_setWidth]
    omega
  | sign =>
    simp only [fillUpper, upper, h, BitVec.toNat_signExtend, BitVec.msb_eq_decide, BitVec.toNat_setWidth,
      decide_eq_true_eq]
    split <;> split <;> omega
  | preserve =>
    have := (s.reg c).isLt
    simp only [fillUpper, upper, h, toNat_append_eq, BitVec.extractLsb'_toNat, Nat.shiftRight_eq_div_pow]
    omega

/-- Whatever the mode, the register holds the result at the operating width, widened. -/
theorem toNat_clip_aluResult (f : (w : Nat) → BitVec w → BitVec w → BitVec w) (c a : Reg) (b : (w : Nat) → BitVec w)
    (s : State) : (clip s.cfg (aluResult f c a b s)).toNat =
      widened s c (f (width s) ((s.reg a).setWidth (width s)) (b (width s))).toNat := by
  cases hq : s.cfg.hasQ64 with
  | false =>
    rw [clip_aluResult_of_base hq, widened_of_base hq, width_of_base hq, BitVec.toNat_setWidth_of_le (by decide)]
  | true =>
    rw [clip_of_q64 hq, aluResult]
    cases hwide : s.wide with
    | true =>
      have hw : width s = 64 := if_pos hwide
      rw [widened_of_wide hwide, hw, BitVec.setWidth_eq, if_pos rfl]
    | false =>
      have hw : width s = 32 := by simp [width, hwide]
      rw [hw, if_neg (by decide), toNat_fillUpper]
      simp [widened, hwide, hq]

/-! What an ALU instruction gives (R170) -/

theorem aluGives_of_alu {i : Instr} {s : State} {c a : Reg} {f : (w : Nat) → BitVec w → BitVec w → BitVec w}
    {b : (w : Nat) → BitVec w} {n : Nat} (hexec : exec i s = alu f c a b s)
    (hn : (f (width s) ((s.reg a).setWidth (width s)) (b (width s))).toNat = n) : AluGives i s c n :=
  gives_of_exec hexec (hn ▸ toNat_clip_aluResult f c a b s)

section

variable {i : Instr} {s : State} {c a b : Reg} {f : (w : Nat) → BitVec w → BitVec w → BitVec w} {F : Nat → Nat → Nat}

/-- A register form gives `F` of its operands, read as numbers at the operating width. -/
theorem aluGives_of_aluReg (hexec : exec i s = aluReg f c a b s)
    (hf : ∀ x y : BitVec (width s), (f (width s) x y).toNat = F x.toNat y.toNat) :
    AluGives i s c (F (uval s a) (uval s b)) :=
  aluGives_of_alu hexec (by rw [hf, BitVec.toNat_setWidth, BitVec.toNat_setWidth, uval, uval])

theorem gives_of_aluReg_of_base (hbase : s.cfg.hasQ64 = false) (hexec : exec i s = aluReg f c a b s)
    (hf : ∀ x y : BitVec 32, (f 32 x y).toNat = F x.toNat y.toNat) : Gives i s c (F (low s a) (low s b)) := by
  have hw := width_of_base hbase
  have h := aluGives_of_aluReg (F := F) hexec (by rwa [hw])
  rwa [AluGives, widened_of_base hbase, uval, uval, hw] at h

end

/-- CCH in the base architecture (R181). -/
theorem gives_cch_of_base {s : State} (h : s.cfg.hasQ64 = false) (c a b : Reg) :
    Gives (.cch c a b) s c (if 2 ^ 32 ≤ low s a + low s b then 1 else 0) :=
  gives_of_aluReg_of_base (F := fun x y => if 2 ^ 32 ≤ x + y then 1 else 0) h rfl (toNat_aluCch (by decide))

/-- ASL is SHL: D9 (log 10). -/
theorem exec_asl (c a b : Reg) (s : State) : exec (.asl c a b) s = exec (.shl c a b) s := rfl

/-! Instructions one after the other -/

theorem execAll_cons_of_next {i : Instr} {s t : State} (h : exec i s = .next t) (is : List Instr) :
    execAll (i :: is) s = execAll is t := by
  simp only [execAll, h]

end Sys2Proof.Machine

namespace Sys2Proof.Proofs

open Sys2Proof.Machine Sys2Proof.Spec

/-- Settles O29: each is the register form of its own operation, whose 32-bit result is the stated number. -/
theorem registerArithmeticInBase : Obligations.RegisterArithmeticInBase := by
  intro s c a b hbase x y
  refine ⟨⟨toNat_encRRR 0x00 0x0 c a b, gives_add_of_base hbase c a b⟩, ⟨toNat_encRRR 0x00 0x1 c a b, ?sub⟩,
    ⟨toNat_encRRR 0x00 0x2 c a b, ?and⟩, ⟨toNat_encRRR 0x00 0x3 c a b, ?or⟩, ⟨toNat_encRRR 0x00 0x4 c a b, ?xor⟩,
    ⟨toNat_encRRR 0x00 0x9 c a b, gives_cch_of_base hbase c a b⟩, ⟨toNat_encRRR 0x00 0xA c a b, ?bch⟩⟩
  case sub => exact gives_of_aluReg_of_base (F := fun x y => (x + 2 ^ 32 - y) % 2 ^ 32) hbase rfl toNat_aluSub
  case and => exact gives_of_aluReg_of_base hbase rfl BitVec.toNat_and
  case or => exact gives_of_aluReg_of_base hbase rfl BitVec.toNat_or
  case xor => exact gives_of_aluReg_of_base hbase rfl BitVec.toNat_xor
  case bch =>
    exact gives_of_aluReg_of_base (F := fun x y => if x < y then 1 else 0) hbase rfl (toNat_aluBch (by decide))

/-- Settles O31: each is the register form of its own shift, by the count that `SHIFT_AMOUNT` makes of the operand. -/
theorem registerShifts : Obligations.RegisterShifts := by
  intro s c a b n
  have hshl : AluGives (.shl c a b) s c (uval s a * 2 ^ n % 2 ^ width s) := by
    refine aluGives_of_aluReg (F := fun x y => x * 2 ^ count s y % 2 ^ width s) rfl fun x y => ?_
    rw [toNat_aluShl, shiftCount_eq_count]
  have hasl : AluGives (.asl c a b) s c (uval s a * 2 ^ n % 2 ^ width s) := by
    rwa [AluGives, Gives, exec_asl]
  refine ⟨?shr, ?asr, hshl, hasl⟩
  case shr =>
    refine aluGives_of_aluReg (F := fun x y => x / 2 ^ count s y) rfl fun x y => ?_
    rw [toNat_aluShr, shiftCount_eq_count]
  case asr =>
    refine aluGives_of_aluReg (F := fun x y => (signed (width s) x / 2 ^ count s y % 2 ^ width s).toNat) rfl
      fun x y => ?_
    rw [toNat_aluAsr, shiftCount_eq_count]

/-- Settles O60: the four instructions one after the other; CCH finds the carry out of the low halves' sum, and the last
ADD adds it to the high halves' sum. -/
theorem multiWordAddition : Obligations.MultiWordAddition := by
  intro s hbase
  obtain ⟨s₁, hlow, -, hsame₁, ha4⟩ := gives_add_of_base hbase .a4 .a0 .a2
  have hbase₁ : s₁.cfg.hasQ64 = false := hsame₁.cfg ▸ hbase
  obtain ⟨s₂, hcarry, -, hsame₂, ht0⟩ := gives_cch_of_base hbase₁ .t0 .a0 .a2
  have hbase₂ : s₂.cfg.hasQ64 = false := hsame₂.cfg ▸ hbase₁
  obtain ⟨s₃, hhigh, -, hsame₃, ha5⟩ := gives_add_of_base hbase₂ .a5 .a1 .a3
  have hbase₃ : s₃.cfg.hasQ64 = false := hsame₃.cfg ▸ hbase₂
  obtain ⟨s₄, hsum, -, hsame₄, hresult⟩ := gives_add_of_base hbase₃ .a5 .a5 .t0
  refine ⟨s₄, ?completes, ?value⟩
  case completes =>
    rw [execAll_cons_of_next hlow, execAll_cons_of_next hcarry, execAll_cons_of_next hhigh, execAll_cons_of_next hsum,
      execAll]
  case value =>
    have hlowHalf : (s₄.reg .a4).toNat = (low s .a0 + low s .a2) % 2 ^ 32 := by
      rw [hsame₄.gpr 4 (by decide), hsame₃.gpr 4 (by decide), hsame₂.gpr 4 (by decide), ha4 4 rfl]
    have hcarryBit : low s₃ .t0 = if 2 ^ 32 ≤ low s .a0 + low s .a2 then 1 else 0 := by
      rw [hsame₃.low_eq (by decide), low, ht0 12 rfl, hsame₁.low_eq (by decide), hsame₁.low_eq (by decide)]
      split <;> rfl
    have hhighSum : low s₃ .a5 = (low s .a1 + low s .a3) % 2 ^ 32 := by
      rw [low, ha5 5 rfl, Nat.mod_mod, hsame₂.low_eq (by decide), hsame₂.low_eq (by decide), hsame₁.low_eq (by decide),
        hsame₁.low_eq (by decide)]
    rw [hresult 5 rfl, hlowHalf, hhighSum, hcarryBit]
    exact add_words_eq (low_lt s .a0) (low_lt s .a2) _ _

end Sys2Proof.Proofs

/-! SUPPORT. The family `43_alu_immediate.md`: the immediate as a number at the operating width, and what the immediate
form of an ALU instruction gives. -/

namespace Sys2Proof.Spec

open Sys2Proof.Machine

/-! The operating width (R32) and the immediate at that width (R104, R190) -/

theorem width_eq (s : State) : width s = 64 ∨ width s = 32 := by
  unfold width
  split
  · exact .inl rfl
  · exact .inr rfl

theorem width_pos (s : State) : 0 < width s := by
  rcases width_eq s with h | h <;> omega

/-- Every operating width is wider than the 13 bits of the immediate, so zero extension loses nothing, and sign extension
adds to an immediate of 2^12 or more all the bits above those 13. -/
theorem toNat_aluImm (s : State) (imm : BitVec 13) : (aluImm s.cfg imm (width s)).toNat = uimm s imm := by
  have hwide : 13 ≤ width s := by
    rcases width_eq s with h | h <;> omega
  cases hext : s.cfg.aluImmExt with
  | zero =>
    simp only [aluImm, uimm, hext]
    exact BitVec.toNat_setWidth_of_le hwide
  | sign =>
    have hmsb : imm.msb = true ↔ ¬ imm.toNat < 4096 := by
      rw [BitVec.msb_eq_decide, decide_eq_true_iff, Nat.not_lt]
    simp only [aluImm, uimm, hext]
    rw [BitVec.toNat_signExtend, BitVec.toNat_setWidth_of_le hwide]
    by_cases hlow : imm.toNat < 4096
    · rw [if_neg fun h => hmsb.mp h hlow, if_pos hlow, Nat.add_zero]
    · rw [if_pos (hmsb.mpr hlow), if_neg hlow, Nat.add_comm]

end Sys2Proof.Spec

namespace Sys2Proof.Machine

open Sys2Proof.Spec

/-! What an ALU instruction with an immediate gives (R190) -/

/-- An immediate form gives `F` of the register and the immediate, read as numbers at the operating width. -/
theorem aluGives_of_aluRegImm {i : Instr} {s : State} {c a : Reg} {imm : BitVec 13}
    {f : (w : Nat) → BitVec w → BitVec w → BitVec w} {F : Nat → Nat → Nat} (hexec : exec i s = aluRegImm f c a imm s)
    (hf : ∀ x y : BitVec (width s), (f (width s) x y).toNat = F x.toNat y.toNat) :
    AluGives i s c (F (uval s a) (uimm s imm)) :=
  aluGives_of_alu hexec (by rw [hf, BitVec.toNat_setWidth, toNat_aluImm, uval])

/-- ASLI is SHLI: D9 (log 10). -/
theorem exec_asli (c a : Reg) (imm : BitVec 13) (s : State) : exec (.asli c a imm) s = exec (.shli c a imm) s := rfl

end Sys2Proof.Machine

namespace Sys2Proof.Proofs

open Sys2Proof.Machine Sys2Proof.Spec

/-- Settles O32: each is the immediate form of an operation of `42_alu_register.md`, whose result as a number is known at
every width. -/
theorem immediateArithmetic : Obligations.ImmediateArithmetic := by
  intro s c a imm x y w
  refine ⟨?add, ?sub, ?and, ?or, ?xor, ?cch, ?bch⟩
  case add => exact aluGives_of_aluRegImm (F := fun x y => (x + y) % 2 ^ w) rfl BitVec.toNat_add
  case sub => exact aluGives_of_aluRegImm (F := fun x y => (x + 2 ^ w - y) % 2 ^ w) rfl toNat_aluSub
  case and => exact aluGives_of_aluRegImm rfl BitVec.toNat_and
  case or => exact aluGives_of_aluRegImm rfl BitVec.toNat_or
  case xor => exact aluGives_of_aluRegImm rfl BitVec.toNat_xor
  case cch =>
    exact aluGives_of_aluRegImm (F := fun x y => if 2 ^ w ≤ x + y then 1 else 0) rfl (toNat_aluCch (width_pos s))
  case bch =>
    exact aluGives_of_aluRegImm (F := fun x y => if x < y then 1 else 0) rfl (toNat_aluBch (width_pos s))

/-- Settles O33: each is the immediate form of its own shift, by the count that `SHIFT_AMOUNT` makes of the extended
immediate. -/
theorem immediateShifts : Obligations.ImmediateShifts := by
  intro s c a imm n
  have hshli : AluGives (.shli c a imm) s c (uval s a * 2 ^ n % 2 ^ width s) := by
    refine aluGives_of_aluRegImm (F := fun x y => x * 2 ^ count s y % 2 ^ width s) rfl fun x y => ?_
    rw [toNat_aluShl, shiftCount_eq_count]
  have hasli : AluGives (.asli c a imm) s c (uval s a * 2 ^ n % 2 ^ width s) := by
    rwa [AluGives, Gives, exec_asli]
  refine ⟨?shri, ?asri, hshli, hasli⟩
  case shri =>
    refine aluGives_of_aluRegImm (F := fun x y => x / 2 ^ count s y) rfl fun x y => ?_
    rw [toNat_aluShr, shiftCount_eq_count]
  case asri =>
    refine aluGives_of_aluRegImm (F := fun x y => (signed (width s) x / 2 ^ count s y % 2 ^ width s).toNat) rfl
      fun x y => ?_
    rw [toNat_aluAsr, shiftCount_eq_count]

end Sys2Proof.Proofs

/-! SUPPORT. The family `44_system.md`: a packed word of format PB as a number, the status register after SSB and CSB, and
trap entry at the target that its vector names. -/

namespace Sys2Proof.Spec

open Sys2Proof.Machine

/-! Words as numbers (R102, R211) -/

/-- The packed layout has 4 bits for the number of the status bit and 1 for the function; where both fit, neither loses
any. -/
theorem toNat_encPB_packed {op n : BitVec 5} {f : BitVec 4} {o g : Nat} (ho : op.toNat = o) (hg : f.toNat = g)
    (hn : n.toNat < 16) (hfits : g < 2) :
    (encPB .packed op n f).toNat = o * 2 ^ 27 + n.toNat * 2 ^ 23 + g * 2 ^ 22 := by
  have hfn2 : (n.extractLsb' 0 4).toNat = n.toNat := by
    rw [BitVec.extractLsb'_toNat, Nat.shiftRight_zero, Nat.mod_eq_of_lt hn]
  have hf1 : (f.extractLsb' 0 1).toNat = g := by
    rw [BitVec.extractLsb'_toNat, Nat.shiftRight_zero, hg, Nat.mod_eq_of_lt hfits]
  have hzero : (0 : BitVec 22).toNat = 0 := rfl
  simp only [encPB, toNat_append_eq, ho, hfn2, hf1, hzero]
  omega

/-- The spec's reading of a vector is the model's (R275). -/
theorem vectorTarget_next_iff_trapTarget {s : State} {v : Vec} {target : Addr} :
    vectorTarget s v = .next target ↔ TrapTarget s v target := vectorTarget_next

end Sys2Proof.Spec

namespace Sys2Proof.Machine

open Sys2Proof.Spec

/-! The status register after SSB and CSB (R212 to R214) -/

/-- SR after SSB `n` (`b` true) or CSB `n` (`b` false). -/
def State.srWithBit (s : State) (n : Nat) (b : Bool) : BitVec 4 :=
  if s.srK ∧ 1 ≤ n ∧ n ≤ 3 then withStatusBit s.sr n b else s.sr

theorem State.getLsbD_srWithBit (s : State) (n : Nat) (b : Bool) (m : Nat) :
    (s.srWithBit n b).getLsbD m =
      if s.sr.getLsbD 0 ∧ m = n ∧ (n = 1 ∨ n = 2 ∨ n = 3) then b else s.sr.getLsbD m := by
  have hnamed : (1 ≤ n ∧ n ≤ 3) ↔ (n = 1 ∨ n = 2 ∨ n = 3) := by omega
  simp only [State.srWithBit, hnamed, State.srK]
  by_cases hwrites : s.sr.getLsbD 0 = true ∧ (n = 1 ∨ n = 2 ∨ n = 3)
  · have hlt : n < 4 := by omega
    rw [if_pos hwrites, getLsbD_withStatusBit]
    simp only [hwrites, hlt, and_true, true_and]
  · rw [if_neg hwrites, if_neg fun ⟨hkernel, _, hbit⟩ => hwrites ⟨hkernel, hbit⟩]

/-- SSB and CSB complete in every state and change nothing but SR and the pc. -/
theorem exec_statusBit (s : State) (n : BitVec 5) (b : Bool) :
    exec (if b then .ssb n else .csb n) s = .next { s with pc := s.pc + 4, sr := s.srWithBit n.toNat b } := by
  have hexec : exec (if b then .ssb n else .csb n) s =
      .next (if s.srK ∧ 1 ≤ n.toNat ∧ n.toNat ≤ 3 then { s with sr := withStatusBit s.sr n.toNat b } else s).advance := by
    cases b with
    | true | false => rfl
  rw [hexec, State.srWithBit]
  split
  · rfl
  · rfl

/-! Trap entry at a defined target (R274, R278) -/

theorem getLsbD_withStatusBit_zero (sr : BitVec 4) (b : Bool) (m : Nat) :
    (withStatusBit sr 0 b).getLsbD m = if m = 0 then b else sr.getLsbD m := by
  rw [getLsbD_withStatusBit]
  simp only [Nat.zero_lt_succ, and_true]

theorem trapEnter_of_trapTarget {s : State} {v : Vec} {target : Addr} (ret : Addr) (h : TrapTarget s v target) :
    trapEnter v ret s = .next { s with ir := ret, sr := withStatusBit s.sr 0 true, pc := target } :=
  trapEnter_next.mpr ⟨target, vectorTarget_next_iff_trapTarget.mpr h, rfl⟩

end Sys2Proof.Machine

namespace Sys2Proof.Proofs

open Sys2Proof.Machine Sys2Proof.Spec

/-- Settles O38: the words are those of the packed layout, and both instructions write `State.srWithBit` to SR. -/
theorem setAndClearStatusBit : Obligations.SetAndClearStatusBit := by
  intro s n
  refine ⟨fun hlayout hn => ?words, fun b => ⟨_, exec_statusBit s n b, rfl, s.getLsbD_srWithBit n.toNat b⟩⟩
  case words =>
    rw [encode, encode, hlayout, toNat_encPB_packed (o := 0x0A) (g := 0) rfl rfl hn (by decide),
      toNat_encPB_packed (o := 0x0A) (g := 1) rfl rfl hn (by decide), Nat.zero_mul, Nat.add_zero, Nat.one_mul]
    exact ⟨rfl, rfl⟩

/-- Settles O39: SYSCAL is trap entry through the software vector, returning to the next instruction. -/
theorem systemCallEntersHandler : Obligations.SystemCallEntersHandler := fun s _ htarget =>
  ⟨_, trapEnter_of_trapTarget (s.pc + 4) htarget, rfl, getLsbD_withStatusBit_zero s.sr true⟩

end Sys2Proof.Proofs

/-! SUPPORT. The family `45_pseudo.md`: instructions one after the other, the instructions of the expansions in the base
architecture, and the stack through PSH and POP. -/

namespace Sys2Proof.Spec

open Sys2Proof.Machine

/-! What stays as it was over several instructions -/

theorem SameBut.trans {s t u : State} {c : Reg} (h : SameBut s t c) (h' : SameBut t u c) : SameBut s u c where
  gpr k hk := (h'.gpr k hk).trans (h.gpr k hk)
  ir := h'.ir.trans h.ir
  sr := h'.sr.trans h.sr
  mem x := (h'.mem x).trans (h.mem x)
  cfg := h'.cfg.trans h.cfg
  irq := h'.irq.trans h.irq

theorem sameBut_with_pc (s : State) (a : Addr) (c : Reg) : SameBut s { s with pc := a } c :=
  ⟨fun _ _ => rfl, rfl, rfl, fun _ => rfl, rfl, rfl⟩

/-- Of the registers that a completed instruction does not write, only ip can read another value after it. -/
theorem SameBut.reg_eq {s t : State} {b c : Reg} (h : SameBut s t c) (hb : c ≠ b) (hip : b ≠ .ip) :
    t.reg b = s.reg b := by
  cases b with
  | zr => rfl
  | gpr k => exact h.gpr k hb
  | ir => rw [State.reg_ir, State.reg_ir, h.ir]
  | ip => exact absurd rfl hip
  | sr => rw [State.reg_sr, State.reg_sr, h.sr]

/-! The immediate of an expansion: it is too small for the two extensions to differ (R104, R221) -/

theorem uimm_of_lt {imm : BitVec 13} (h : imm.toNat < 4096) (s : State) : uimm s imm = imm.toNat := by
  unfold uimm
  cases s.cfg.aluImmExt with
  | zero => rfl
  | sign => exact if_pos h

/-! The stack (R230, R231) -/

/-- The slot that sp points into: STD and LDD ignore the two low bits of the address (R134, R138). -/
def stackTop (s : State) : Addr := align (BitVec.ofNat 32 (low s .sp)) 2

/-- The slot below sp, where PSH stores. -/
def pushSlot (s : State) : Addr := align (BitVec.ofNat 32 (low s .sp + 2 ^ 32 - 4)) 2

/-- What PSH of register `b` makes of `s`. -/
structure Pushed (b : Reg) (s t : State) : Prop where
  sp : (t.reg .sp).toNat = (low s .sp + 2 ^ 32 - 4) % 2 ^ 32
  slot : memRead t (pushSlot s) 4 = low s b
  mem : ∀ x, (∀ j < 4, x ≠ (pushSlot s + BitVec.ofNat 32 j).toNat) → t.mem.read x = s.mem.read x
  gpr : ∀ k, Reg.sp ≠ .gpr k → t.reg (.gpr k) = s.reg (.gpr k)
  pc : t.pc = s.pc + 8
  ir : t.ir = s.ir
  sr : t.sr = s.sr
  cfg : t.cfg = s.cfg

/-- What POP to register `c` makes of `s`. -/
structure Popped (c : Reg) (s t : State) : Prop where
  sp : (t.reg .sp).toNat = (low s .sp + 4) % 2 ^ 32
  value : ∀ k, c = .gpr k → (t.reg c).toNat = memRead s (stackTop s) 4
  gpr : ∀ k, Reg.sp ≠ .gpr k → c ≠ .gpr k → t.reg (.gpr k) = s.reg (.gpr k)
  mem : t.mem = s.mem
  pc : t.pc = s.pc + 8
  ir : t.ir = s.ir
  sr : t.sr = s.sr

theorem align_effAddr_sp (s : State) : align (effAddr s .sp 0) 2 = stackTop s := by
  have haddr : effAddr s .sp 0 = BitVec.ofNat 32 (low s .sp) := BitVec.eq_of_toNat_eq (by simp [effAddr, low])
  rw [haddr, stackTop]

theorem stackTop_eq_pushSlot {s t : State} (h : (t.reg .sp).toNat = (low s .sp + 2 ^ 32 - 4) % 2 ^ 32) :
    stackTop t = pushSlot s := by
  have haddr : BitVec.ofNat 32 (low t .sp) = BitVec.ofNat 32 (low s .sp + 2 ^ 32 - 4) :=
    BitVec.eq_of_toNat_eq (by rw [low, h, BitVec.toNat_ofNat, BitVec.toNat_ofNat, Nat.mod_mod, Nat.mod_mod])
  rw [stackTop, haddr, pushSlot]

theorem Pushed.stackTop_eq {b : Reg} {s t : State} (h : Pushed b s t) : stackTop t = pushSlot s :=
  stackTop_eq_pushSlot h.sp

end Sys2Proof.Spec

namespace Sys2Proof.Machine

open Sys2Proof.Spec

/-! A byte of memory outside a store (R67) -/

theorem read_memWrite_out (s : State) {a : Addr} {n x : Nat} (v : Nat)
    (h : ∀ j < n, x ≠ (a + BitVec.ofNat 32 j).toNat) :
    (memWrite s a n v).mem.read x = s.mem.read x :=
  Memory.read_writeBytes_out s.mem a _ x (by rwa [Endian.length_bytes])

/-! Instructions one after the other -/

theorem execAll_one_of_next {i : Instr} {s t : State} (h : exec i s = .next t) : execAll [i] s = .next t :=
  execAll_cons_of_next h []

theorem execAll_one_of_gives {i : Instr} {s : State} {k : Fin 28} {n : Nat} (h : Gives i s (.gpr k) n) :
    ∃ t, execAll [i] s = .next t ∧ t.pc = s.pc + 4 ∧ SameBut s t (.gpr k) ∧ (t.reg (.gpr k)).toNat = n := by
  obtain ⟨t, hexec, hpc, hsame, hvalue⟩ := h
  exact ⟨t, execAll_one_of_next hexec, hpc, hsame, hvalue k rfl⟩

theorem execAll_two_of_next {i j : Instr} {s t u : State} (hi : exec i s = .next t) (hj : exec j t = .next u) :
    execAll [i, j] s = .next u :=
  (execAll_cons_of_next hi [j]).trans (execAll_one_of_next hj)

/-! The instructions of the expansions in the base architecture -/

/-- An immediate form gives `F` of the register and the immediate; `n` is the immediate as a number, small enough
for both extensions. -/
theorem gives_of_aluRegImm_of_base {i : Instr} {s : State} {c a : Reg} {imm : BitVec 13} {n : Nat}
    {f : (w : Nat) → BitVec w → BitVec w → BitVec w} {F : Nat → Nat → Nat} (hbase : s.cfg.hasQ64 = false)
    (hexec : exec i s = aluRegImm f c a imm s) (hf : ∀ x y : BitVec 32, (f 32 x y).toNat = F x.toNat y.toNat)
    (hn : imm.toNat = n) (hsmall : n < 4096) : Gives i s c (F (low s a) n) := by
  have hw := width_of_base hbase
  have h := aluGives_of_aluRegImm (F := F) hexec (by rwa [hw])
  rwa [AluGives, widened_of_base hbase, uval, hw, uimm_of_lt (by omega), hn] at h

theorem gives_addi_of_base {s : State} (hbase : s.cfg.hasQ64 = false) (c a : Reg) {imm : BitVec 13} {n : Nat}
    (hn : imm.toNat = n) (hsmall : n < 4096) : Gives (.addi c a imm) s c ((low s a + n) % 2 ^ 32) :=
  gives_of_aluRegImm_of_base (F := fun x y => (x + y) % 2 ^ 32) hbase rfl BitVec.toNat_add hn hsmall

theorem gives_subi_of_base {s : State} (hbase : s.cfg.hasQ64 = false) (c a : Reg) {imm : BitVec 13} {n : Nat}
    (hn : imm.toNat = n) (hsmall : n < 4096) : Gives (.subi c a imm) s c ((low s a + 2 ^ 32 - n) % 2 ^ 32) :=
  gives_of_aluRegImm_of_base (F := fun x y => (x + 2 ^ 32 - y) % 2 ^ 32) hbase rfl toNat_aluSub hn hsmall

theorem gives_xor_self_of_base {s : State} (hbase : s.cfg.hasQ64 = false) (c : Reg) : Gives (.xor c c c) s c 0 := by
  have h : Gives (.xor c c c) s c (low s c ^^^ low s c) := gives_of_aluReg_of_base hbase rfl BitVec.toNat_xor
  rwa [Nat.xor_self] at h

/-- In the base architecture a 4-byte load fills the register, so `LOAD_EXT` has nothing to extend (R135). -/
theorem gives_ldd_of_base {s : State} (hbase : s.cfg.hasQ64 = false) {c a : Reg} {imm : BitVec 13}
    (hbacks : backs s.cfg (align (effAddr s a imm) 2) 4 = true) :
    Gives (.ldd c a imm) s c (memRead s (align (effAddr s a imm) 2) 4) := by
  have hxlen : s.cfg.xlen = 32 := by simp [Config.xlen, hbase]
  have hupper : loadUpper s (align (effAddr s a imm) 2) 4 = 0 := by
    unfold loadUpper
    cases s.cfg.loadExt with
    | zero => rfl
    | sign => simp [hxlen]
  refine gives_of_exec (load_next.mpr ⟨hbacks, rfl⟩) ?_
  rw [toNat_clip_widenLoad s _ (by decide) (by omega), hupper, Nat.mul_zero, Nat.add_zero]

/-- IRJ without an offset goes to what its register holds. -/
theorem exec_irj_zero (a : Reg) (s : State) :
    exec (.irj a 0) s = .next { s with pc := landing s.cfg.jumpIgnoredBits (s.reg a).toNat 0 } :=
  congrArg _ (jumpTo_eq_landing (toNat_regTarget s a 0))

/-! PSH and POP -/

theorem execAll_psh {s : State} {b : Reg} (hbase : s.cfg.hasQ64 = false) (hm : s.mem.wf = true) (hsp : b ≠ .sp)
    (hip : b ≠ .ip) (hbacks : backs s.cfg (pushSlot s) 4 = true) :
    ∃ t, execAll (Pseudo.psh b).expand s = .next t ∧ Pushed b s t := by
  obtain ⟨s₁, hsubi, hpc, hsame, hlowered⟩ := gives_subi_of_base hbase .sp .sp (imm := 4) (n := 4) rfl (by decide)
  have hsp₁ := hlowered _ rfl
  have hmem : s₁.mem = s.mem := exec_keeps_mem rfl hsubi
  have hb : s₁.reg b = s.reg b := hsame.reg_eq hsp.symm hip
  have hslot : align (effAddr s₁ .sp 0) 2 = pushSlot s := (align_effAddr_sp s₁).trans (stackTop_eq_pushSlot hsp₁)
  have hstd : exec (.std b .sp 0) s₁ = .next (memWrite s₁ (pushSlot s) 4 (s₁.reg b).toNat).advance :=
    store_next.mpr (hslot.symm ▸ ⟨hsame.cfg ▸ hbacks, rfl⟩)
  refine ⟨_, execAll_two_of_next hsubi hstd,
    ⟨hsp₁, ?slot, fun x hx => ?mem, hsame.gpr, ?pc, hsame.ir, hsame.sr, hsame.cfg⟩⟩
  case slot =>
    rw [memRead_advance, memRead_memWrite_same _ _ (hmem ▸ hm) (by decide), hb, show 256 ^ 4 = 2 ^ 32 from rfl, low]
  case mem => rw [State.advance_mem, read_memWrite_out s₁ _ hx, hsame.mem]
  case pc => simp [hpc, BitVec.add_assoc]

theorem execAll_pop {s : State} {c : Reg} (hbase : s.cfg.hasQ64 = false) (hsp : c ≠ .sp)
    (hbacks : backs s.cfg (stackTop s) 4 = true) :
    ∃ t, execAll (Pseudo.pop c).expand s = .next t ∧ Popped c s t := by
  rw [← align_effAddr_sp] at hbacks
  obtain ⟨s₁, hldd, hpc, hsame, hloaded⟩ := gives_ldd_of_base hbase (c := c) hbacks
  obtain ⟨t, haddi, hpc', hsame', hraised⟩ :=
    gives_addi_of_base (hsame.cfg ▸ hbase) .sp .sp (imm := 4) (n := 4) rfl (by decide)
  refine ⟨t, execAll_two_of_next hldd haddi, ⟨?sp, ?value, fun k hk hc => ?gpr, ?mem, ?pc,
    hsame'.ir.trans hsame.ir, hsame'.sr.trans hsame.sr⟩⟩
  case sp => rw [hraised _ rfl, hsame.low_eq hsp]
  case value =>
    rintro k rfl
    rw [hsame'.gpr k hsp.symm, hloaded k rfl, align_effAddr_sp]
  case gpr => rw [hsame'.gpr k hk, hsame.gpr k hc]
  case mem => rw [exec_keeps_mem rfl haddi, exec_keeps_mem rfl hldd]
  case pc => simp [hpc, hpc', BitVec.add_assoc]

end Sys2Proof.Machine

namespace Sys2Proof.Proofs

open Sys2Proof.Machine Sys2Proof.Spec

/-- Settles O54: LUI gives the upper 22 bits over ten zeros, and ADDI adds the ten low bits, which carry into none
of them. -/
theorem loadImmediateExpansion : Obligations.LoadImmediateExpansion := by
  intro s c imm hbase
  obtain ⟨-, s₁, hlui, hpc, hsame, hupper⟩ := loadUpperImmediate s c (imm.extractLsb' 10 22)
  have hlow : ((imm.extractLsb' 0 10).setWidth 13).toNat = imm.toNat % 2 ^ 10 := by
    rw [BitVec.toNat_setWidth_of_le (by decide), BitVec.extractLsb'_toNat, Nat.shiftRight_zero]
  obtain ⟨t, haddi, hpc', hsame', hsum⟩ := gives_addi_of_base (hsame.cfg ▸ hbase) c c hlow (by omega)
  refine ⟨t, execAll_two_of_next hlui haddi, by simp [hpc, hpc', BitVec.add_assoc], hsame.trans hsame', ?_⟩
  rintro k rfl
  have hhigh : (imm.extractLsb' 10 22).toNat = imm.toNat / 2 ^ 10 := by
    have := imm.isLt
    rw [BitVec.extractLsb'_toNat, Nat.shiftRight_eq_div_pow]
    omega
  rw [hsum k rfl, low, hupper k rfl, hhigh]
  omega

/-- Settles O55: ADDI reads ip as its own address, 4 below the JMP's. -/
theorem jumpAndLinkExpansion : Obligations.JumpAndLinkExpansion := by
  intro s imm hbase
  obtain ⟨s₁, haddi, hpc, hsame, hlink⟩ := gives_addi_of_base hbase .rp .ip (imm := 8) (n := 8) rfl (by decide)
  have hjmp := (unconditionalJumps.2 s₁ imm).2
  refine ⟨_, execAll_two_of_next haddi hjmp, hsame.trans (sameBut_with_pc s₁ _ .rp), ?link, ?pc⟩
  case link =>
    calc (s₁.reg .rp).toNat = (low s .ip + 8) % 2 ^ 32 := hlink _ rfl
      _ = (s.pc + 8).toNat := by simp [low]
  case pc => rw [hsame.cfg, hpc]

/-- Settles O56: INC, DEC and CLR are each one completed write of the register; NOP's write is discarded (R28). -/
theorem shortExpansions : Obligations.ShortExpansions := by
  intro s k hbase x
  refine ⟨execAll_one_of_gives ?inc, execAll_one_of_gives ?dec, execAll_one_of_gives ?clr, rfl,
    execAll_one_of_next (exec_irj_zero .rp s)⟩
  case inc => exact gives_addi_of_base hbase (.gpr k) (.gpr k) (imm := 1) rfl (by decide)
  case dec => exact gives_subi_of_base hbase (.gpr k) (.gpr k) (imm := 1) rfl (by decide)
  case clr => exact gives_xor_self_of_base hbase (.gpr k)

/-- Settles O57: after PSH the stack pointer points into the slot it stored in, and POP loads from there. -/
theorem pushThenPop : Obligations.PushThenPop := by
  intro s b c hbase hm hb hc hip slot hslot
  obtain ⟨t, hpsh, hpushed⟩ := execAll_psh hbase hm hb hip hslot
  have htop : stackTop t = slot := hpushed.stackTop_eq
  obtain ⟨u, hpop, hpopped⟩ := execAll_pop (s := t) (hpushed.cfg ▸ hbase) hc (by rwa [htop, hpushed.cfg])
  refine ⟨t, u, hpsh, hpushed.sp, hpushed.slot, hpushed.mem, hpop, ?sp, fun k hk => ?value,
    fun k hk hck => (hpopped.gpr k hk hck).trans (hpushed.gpr k hk), ?pc, hpopped.mem, hpopped.sr.trans hpushed.sr,
    hpopped.ir.trans hpushed.ir⟩
  case sp =>
    have := low_lt s .sp
    rw [hpopped.sp, low, hpushed.sp]
    omega
  case value => exact (hpopped.value k hk).trans (htop ▸ hpushed.slot)
  case pc => simp [hpopped.pc, hpushed.pc, BitVec.add_assoc]

end Sys2Proof.Proofs

/-! SUPPORT. The family `46_ext_64bit.md`: the operating width and the register width with the 64-bit extension, the
values of LUI.UU and LUI.LU, and the low half of a register after ADDI at either operating width. -/

namespace Sys2Proof.Spec

open Sys2Proof.Machine

/-! The widths with the extension (R32, R240) -/

theorem width_of_q64 {s : State} (h : s.cfg.hasQ64 = true) : width s = if s.sr.getLsbD 3 then 64 else 32 := by
  rw [width, State.wide, h, Bool.true_and, State.srQ]

theorem xlen_of_q64 {c : Config} (h : c.hasQ64 = true) : c.xlen = 64 := if_pos h

/-! The low half of a W-bit result (R242, R243) -/

theorem two_pow_32_dvd_width (s : State) : 2 ^ 32 ∣ 2 ^ width s := by
  rcases width_eq s with h | h <;> exact Nat.pow_dvd_pow 2 (by omega)

theorem uval_mod_eq_low (s : State) (r : Reg) : uval s r % 2 ^ 32 = low s r :=
  Nat.mod_mod_of_dvd _ (two_pow_32_dvd_width s)

/-- Widening a result to the register changes only bits above its low half, whatever the mode and `Q0_UPPER` are. -/
theorem widened_mod (s : State) (c : Reg) (n : Nat) : widened s c n % 2 ^ 32 = n % 2 ^ 32 := by
  unfold widened
  split
  next => rfl
  next =>
    split
    next => exact Nat.add_mul_mod_self_left n _ _
    next => rfl

/-! A constant from its four slices (R247) -/

/-- LUI.LU puts its slice over a low half that is already the constant's, and LUI.UU replaces all that stands above the
ten low bits of that slice. -/
theorem constant_of_slices {n x : Nat} (hn : n < 2 ^ 64) (hx : x % 2 ^ 32 = n % 2 ^ 32) :
    n / 2 ^ 42 % 2 ^ 22 * 2 ^ 42 +
      (x / 2 ^ 54 * 2 ^ 54 + n / 2 ^ 32 % 2 ^ 22 * 2 ^ 32 + x % 2 ^ 32) % 2 ^ 42 = n := by
  omega

theorem toNat_extractLsb' {w : Nat} (v : BitVec w) (i m : Nat) :
    (v.extractLsb' i m).toNat = v.toNat / 2 ^ i % 2 ^ m := by
  rw [BitVec.extractLsb'_toNat, Nat.shiftRight_eq_div_pow]

end Sys2Proof.Spec

namespace Sys2Proof.Machine

open Sys2Proof.Spec

/-! LUI.UU and LUI.LU (R246, R247) -/

theorem toNat_luiUUValue (v : RegVal) (imm : BitVec 22) :
    (imm ++ v.extractLsb' 0 42 : BitVec 64).toNat = imm.toNat * 2 ^ 42 + v.toNat % 2 ^ 42 := by
  rw [toNat_append_eq, toNat_extractLsb', Nat.pow_zero, Nat.div_one]

theorem toNat_luiLUValue (v : RegVal) (imm : BitVec 22) :
    (v.extractLsb' 54 10 ++ imm ++ v.extractLsb' 0 32 : BitVec 64).toNat =
      v.toNat / 2 ^ 54 * 2 ^ 54 + imm.toNat * 2 ^ 32 + v.toNat % 2 ^ 32 := by
  have := v.isLt
  rw [toNat_append_eq, toNat_append_eq, toNat_extractLsb', toNat_extractLsb']
  omega

theorem gives_luiUU {s : State} (h : s.cfg.hasQ64 = true) (c : Reg) (imm : BitVec 22) :
    Gives (.luiUU c imm) s c (imm.toNat * 2 ^ 42 + (s.reg c).toNat % 2 ^ 42) :=
  gives_of_exec rfl (by rw [clip_of_q64 h]; exact toNat_luiUUValue (s.reg c) imm)

theorem gives_luiLU {s : State} (h : s.cfg.hasQ64 = true) (c : Reg) (imm : BitVec 22) :
    Gives (.luiLU c imm) s c
      ((s.reg c).toNat / 2 ^ 54 * 2 ^ 54 + imm.toNat * 2 ^ 32 + (s.reg c).toNat % 2 ^ 32) :=
  gives_of_exec rfl (by rw [clip_of_q64 h]; exact toNat_luiLUValue (s.reg c) imm)

/-! ADDI at either operating width (R191, R242, R243) -/

/-- Carries run upwards only, so the low half of ADDI's result is the sum of the low halves in every configuration and
mode; `n` is the immediate as a number, small enough for both extensions. -/
theorem gives_addi_low (s : State) (c a : Reg) {imm : BitVec 13} {n : Nat} (hn : imm.toNat = n) (hsmall : n < 4096) :
    ∃ m, Gives (.addi c a imm) s c m ∧ m % 2 ^ 32 = (low s a + n) % 2 ^ 32 := by
  have hsum : AluGives (.addi c a imm) s c ((uval s a + uimm s imm) % 2 ^ width s) :=
    aluGives_of_aluRegImm (F := fun x y => (x + y) % 2 ^ width s) rfl BitVec.toNat_add
  refine ⟨_, hsum, ?_⟩
  rw [widened_mod, Nat.mod_mod_of_dvd _ (two_pow_32_dvd_width s), Nat.add_mod, uval_mod_eq_low,
    uimm_of_lt (hn ▸ hsmall), hn, Nat.add_mod_mod]

end Sys2Proof.Machine

namespace Sys2Proof.Proofs

open Sys2Proof.Machine Sys2Proof.Spec

/-- Settles O20: the store and the load of 8 bytes, which fill a 64-bit register. -/
theorem quadWordAccesses : Obligations.QuadWordAccesses := by
  rintro s r a imm _ hm hq rfl hbacks
  have hfits : 8 * 8 ≤ s.cfg.xlen := (xlen_of_q64 hq).ge
  exact ⟨storeGives_of_exec rfl hm (by decide) hbacks, loadGives_of_exec rfl (by decide) hfits hbacks⟩

/-- Settles O23: each is one completed write of a 64-bit register with the slice put in place. -/
theorem loadUpperImmediateHighHalves : Obligations.LoadUpperImmediateHighHalves := fun _ c imm hq =>
  ⟨gives_luiUU hq c imm, gives_luiLU hq c imm⟩

/-- Settles O27: each is the conditional jump of its own condition, whose meaning as numbers is known at every width. -/
theorem conditionalJumpsFollowOperatingWidth : Obligations.ConditionalJumpsFollowOperatingWidth := by
  intro s a b imm hq
  rw [← width_of_q64 hq]
  intro w x y
  refine ⟨?jeq, ?jlt, ?jslt, ?jsv, ?jne, ?jge, ?jsge, ?jnsv⟩
  case jeq => exact jumpsIf_of_condJump (P := (· = ·)) rfl rfl subZero_iff
  case jlt => exact jumpsIf_of_condJump (P := (· < ·)) rfl rfl subBorrow_iff
  case jslt => exact jumpsIf_of_condJump (P := signBit w) rfl rfl subSign_iff
  case jsv => exact jumpsIf_of_condJump (P := overflows w) rfl rfl subOverflow_iff
  case jne => exact jumpsIf_of_condJump_not (P := (· = ·)) rfl rfl subZero_iff
  case jge => exact (jumpsIf_of_condJump_not (P := (· < ·)) rfl rfl subBorrow_iff).congr Nat.not_lt
  case jsge => exact jumpsIf_of_condJump_not (P := signBit w) rfl rfl subSign_iff
  case jnsv => exact jumpsIf_of_condJump_not (P := overflows w) rfl rfl subOverflow_iff

/-- Settles O30: each is the register form of its own operation, whose result as a number is known at every width. -/
theorem registerArithmeticFollowsOperatingWidth : Obligations.RegisterArithmeticFollowsOperatingWidth := by
  intro s c a b hq
  rw [← width_of_q64 hq]
  intro w x y
  refine ⟨?add, ?sub, ?and, ?or, ?xor, ?cch, ?bch⟩
  case add => exact aluGives_of_aluReg (F := fun x y => (x + y) % 2 ^ w) rfl BitVec.toNat_add
  case sub => exact aluGives_of_aluReg (F := fun x y => (x + 2 ^ w - y) % 2 ^ w) rfl toNat_aluSub
  case and => exact aluGives_of_aluReg rfl BitVec.toNat_and
  case or => exact aluGives_of_aluReg rfl BitVec.toNat_or
  case xor => exact aluGives_of_aluReg rfl BitVec.toNat_xor
  case cch =>
    exact aluGives_of_aluReg (F := fun x y => if 2 ^ w ≤ x + y then 1 else 0) rfl (toNat_aluCch (width_pos s))
  case bch =>
    exact aluGives_of_aluReg (F := fun x y => if x < y then 1 else 0) rfl (toNat_aluBch (width_pos s))

/-- Settles O59: LUI and ADDI put the constant's low half in place, whatever ADDI leaves above it in 32-bit mode; LUI.LU
and LUI.UU keep that half and replace every bit above it. -/
theorem sixtyFourBitConstant : Obligations.SixtyFourBitConstant := by
  intro s k v hq
  obtain ⟨-, s₁, hlui, hpc₁, hsame₁, hupper⟩ := loadUpperImmediate s (.gpr k) (v.extractLsb' 10 22)
  have himm : ((v.extractLsb' 0 10).setWidth 13).toNat = v.toNat % 2 ^ 10 := by
    rw [BitVec.toNat_setWidth_of_le (by decide), toNat_extractLsb', Nat.pow_zero, Nat.div_one]
  obtain ⟨x, ⟨s₂, haddi, hpc₂, hsame₂, hsum⟩, hx⟩ := gives_addi_low s₁ (.gpr k) (.gpr k) himm (by omega)
  have hq₂ : s₂.cfg.hasQ64 = true := (hsame₁.trans hsame₂).cfg ▸ hq
  obtain ⟨s₃, hluiLU, hpc₃, hsame₃, hmiddle⟩ := gives_luiLU hq₂ (.gpr k) (v.extractLsb' 32 22)
  have hq₃ : s₃.cfg.hasQ64 = true := hsame₃.cfg ▸ hq₂
  obtain ⟨s₄, hluiUU, hpc₄, hsame₄, hresult⟩ := gives_luiUU hq₃ (.gpr k) (v.extractLsb' 42 22)
  have hlow : x % 2 ^ 32 = v.toNat % 2 ^ 32 := by
    rw [hx, low, hupper k rfl, toNat_extractLsb']
    omega
  refine ⟨s₄, ?completes, ?value, ?pc, ((hsame₁.trans hsame₂).trans hsame₃).trans hsame₄⟩
  case completes =>
    rw [execAll_cons_of_next hlui, execAll_cons_of_next haddi, execAll_two_of_next hluiLU hluiUU]
  case value =>
    apply BitVec.eq_of_toNat_eq
    rw [hresult k rfl, hmiddle k rfl, hsum k rfl, toNat_extractLsb', toNat_extractLsb']
    exact constant_of_slices v.isLt hlow
  case pc => simp [hpc₁, hpc₂, hpc₃, hpc₄, BitVec.add_assoc]

end Sys2Proof.Proofs

/-! SUPPORT. The family `47_ext_muldiv.md`: the product, the quotient and the remainder as numbers at any width, and what
an ALU instruction whose operation has a case for its second operand gives. -/

namespace Sys2Proof.Machine

open Sys2Proof.Spec

/-! The product (R261 (a)) -/

/-- The low bits of the signed product are those of the unsigned one. -/
theorem aluMul_eq_mul {w : Nat} (x y : BitVec w) : aluMul w x y = x * y := by
  rw [aluMul, BitVec.ofInt_mul, BitVec.ofInt_toInt, BitVec.ofInt_toInt]

theorem toNat_aluMul {w : Nat} (x y : BitVec w) : (aluMul w x y).toNat = x.toNat * y.toNat % 2 ^ w := by
  rw [aluMul_eq_mul, BitVec.toNat_mul]

theorem toNat_aluMul_signed {w : Nat} (x y : BitVec w) :
    (aluMul w x y).toNat = (signed w x.toNat * signed w y.toNat % 2 ^ w).toNat := by
  rw [aluMul, BitVec.toNat_ofInt, signed_toNat, signed_toNat, Int.natCast_pow, Int.cast_ofNat_Int]

/-! The quotient and the remainder (R261 (b), (c), (d)) -/

theorem aluDiv_of_ne_zero {w : Nat} (a : BitVec w) {b : BitVec w} (hb : b ≠ 0) :
    aluDiv w a b = BitVec.ofInt w (a.toInt.tdiv b.toInt) := if_neg hb

theorem aluMod_of_ne_zero {w : Nat} (a : BitVec w) {b : BitVec w} (hb : b ≠ 0) :
    aluMod w a b = BitVec.ofInt w (a.toInt.tmod b.toInt) := by
  rw [aluMod, if_neg hb, Int.tmod_def, Int.mul_comm]

/-- The remainder always fits the width, in the overflow case too, where it is 0. -/
theorem toInt_aluMod {w : Nat} (a : BitVec w) {b : BitVec w} (hb : b ≠ 0) :
    (aluMod w a b).toInt = a.toInt.tmod b.toInt := by
  rw [aluMod_of_ne_zero a hb, ← BitVec.toInt_srem, BitVec.ofInt_toInt]

theorem ne_zero_of_toNat {w n : Nat} {y : BitVec w} (hy : y.toNat = n) (hn : n ≠ 0) : y ≠ 0 := by
  rintro rfl
  exact hn (hy ▸ BitVec.toNat_zero)

theorem toNat_aluDiv {w n : Nat} (x : BitVec w) {y : BitVec w} (hy : y.toNat = n) (hn : n ≠ 0) :
    (aluDiv w x y).toNat = ((signed w x.toNat).tdiv (signed w n) % 2 ^ w).toNat := by
  rw [aluDiv_of_ne_zero x (ne_zero_of_toNat hy hn), BitVec.toNat_ofInt, ← hy, signed_toNat, signed_toNat,
    Int.natCast_pow, Int.cast_ofNat_Int]

theorem toNat_aluMod {w n : Nat} (x : BitVec w) {y : BitVec w} (hy : y.toNat = n) (hn : n ≠ 0) :
    (aluMod w x y).toNat = ((signed w x.toNat).tmod (signed w n) % 2 ^ w).toNat := by
  rw [aluMod_of_ne_zero x (ne_zero_of_toNat hy hn), BitVec.toNat_ofInt, ← hy, signed_toNat, signed_toNat,
    Int.natCast_pow, Int.cast_ofNat_Int]

theorem aluDiv_mul_add_aluMod {w : Nat} (a : BitVec w) {b : BitVec w} (hb : b ≠ 0) :
    aluDiv w a b * b + aluMod w a b = a :=
  calc aluDiv w a b * b + aluMod w a b
      = BitVec.ofInt w (a.toInt.tdiv b.toInt) * BitVec.ofInt w b.toInt + BitVec.ofInt w (a.toInt.tmod b.toInt) := by
        rw [aluDiv_of_ne_zero a hb, aluMod_of_ne_zero a hb, BitVec.ofInt_toInt]
    _ = BitVec.ofInt w (a.toInt.tdiv b.toInt * b.toInt + a.toInt.tmod b.toInt) := by
        rw [BitVec.ofInt_add, BitVec.ofInt_mul]
    _ = a := by rw [Int.tdiv_mul_add_tmod, BitVec.ofInt_toInt]

theorem tmod_eq_zero_or_sign (a b : Int) : a.tmod b = 0 ∨ (a.tmod b < 0 ↔ a < 0) := by
  by_cases ha : 0 ≤ a
  · have hrem : 0 ≤ a.tmod b := Int.tmod_nonneg b ha
    omega
  · have hrem : 0 ≤ (-a).tmod b := Int.tmod_nonneg b (by omega)
    rw [Int.neg_tmod] at hrem
    omega

/-! Division by zero (R261 (e)) -/

theorem aluDiv_zero {w : Nat} (x : BitVec w) : aluDiv w x 0 = Config.divZero w .div x := if_pos rfl

theorem aluMod_zero {w : Nat} (x : BitVec w) : aluMod w x 0 = Config.divZero w .mod x := if_pos rfl

/-- `DIV_ZERO` of the operation and of register `a` at the operating width. -/
def State.divZeroValue (s : State) (op : DivOp) (a : Reg) : Nat :=
  if s.wide then (Config.divZero 64 op (s.reg a)).toNat else (Config.divZero 32 op ((s.reg a).setWidth 32)).toNat

theorem State.divZeroValue_eq (s : State) (op : DivOp) (a : Reg) :
    s.divZeroValue op a = (Config.divZero (width s) op ((s.reg a).setWidth (width s))).toNat := by
  unfold State.divZeroValue width
  cases s.wide with
  | true => simp
  | false => rfl

/-! What a multiplication or division gives -/

/-- The second operand of a register form, as a number. -/
theorem toNat_setWidth_reg (s : State) (r : Reg) : ((s.reg r).setWidth (width s)).toNat = uval s r :=
  BitVec.toNat_setWidth ..

section

variable {i : Instr} {s : State} {c a : Reg} {b : (w : Nat) → BitVec w} {n : Nat}

/-- The second operand is known as a number `n`, of which the operation may have to know more than that it is one. -/
theorem aluGives_of_operand {f : (w : Nat) → BitVec w → BitVec w → BitVec w} {F : Nat → Nat → Nat}
    (hexec : exec i s = alu f c a b s) (hb : (b (width s)).toNat = n)
    (hf : ∀ x y : BitVec (width s), y.toNat = n → (f (width s) x y).toNat = F x.toNat n) :
    AluGives i s c (F (uval s a) n) :=
  aluGives_of_alu hexec (by rw [hf _ _ hb, toNat_setWidth_reg])

theorem aluGives_quotient (hexec : exec i s = alu aluDiv c a b s) (hb : (b (width s)).toNat = n) (hn : n ≠ 0) :
    AluGives i s c ((sval s a).tdiv (signed (width s) n) % 2 ^ width s).toNat :=
  aluGives_of_operand (F := fun x y => ((signed (width s) x).tdiv (signed (width s) y) % 2 ^ width s).toNat) hexec hb
    fun x _ hy => toNat_aluDiv x hy hn

theorem aluGives_remainder (hexec : exec i s = alu aluMod c a b s) (hb : (b (width s)).toNat = n) (hn : n ≠ 0) :
    AluGives i s c ((sval s a).tmod (signed (width s) n) % 2 ^ width s).toNat :=
  aluGives_of_operand (F := fun x y => ((signed (width s) x).tmod (signed (width s) y) % 2 ^ width s).toNat) hexec hb
    fun x _ hy => toNat_aluMod x hy hn

theorem aluGives_divZero {f : (w : Nat) → BitVec w → BitVec w → BitVec w} {op : DivOp}
    (hexec : exec i s = alu f c a b s) (hf : ∀ x, f (width s) x 0 = Config.divZero (width s) op x)
    (hb : (b (width s)).toNat = 0) : AluGives i s c (s.divZeroValue op a) := by
  have hzero : b (width s) = 0 := BitVec.eq_of_toNat_eq (hb.trans BitVec.toNat_zero.symm)
  exact aluGives_of_alu hexec (by rw [hzero, hf, State.divZeroValue_eq])

end

end Sys2Proof.Machine

namespace Sys2Proof.Proofs

open Sys2Proof.Machine Sys2Proof.Spec

/-- Settles O34: the product has the same low bits in both readings of the operands. -/
theorem multiplication : Obligations.Multiplication := by
  intro s c a b imm w
  refine ⟨?unsigned, ?signed, ?immediate⟩
  case unsigned => exact aluGives_of_aluReg (F := fun x y => x * y % 2 ^ w) rfl toNat_aluMul
  case signed =>
    exact aluGives_of_aluReg (F := fun x y => (signed w x * signed w y % 2 ^ w).toNat) rfl toNat_aluMul_signed
  case immediate => exact aluGives_of_aluRegImm (F := fun x y => x * y % 2 ^ w) rfl toNat_aluMul

/-- Settles O35: each is the truncating division of its own operands, the second read at the operating width. -/
theorem divisionAndModulo : Obligations.DivisionAndModulo := by
  intro s c a b imm w
  have hreg := toNat_setWidth_reg s b
  have himm := toNat_aluImm s imm
  exact ⟨fun h => ⟨aluGives_quotient rfl hreg h, aluGives_remainder rfl hreg h⟩,
    fun h => ⟨aluGives_quotient rfl himm h, aluGives_remainder rfl himm h⟩⟩

/-- Settles O36: with divisor 0 both operations are `DIV_ZERO`, of which nothing is used. -/
theorem divisionByZeroCompletes : Obligations.DivisionByZeroCompletes := by
  intro s c a b imm z
  have hreg := toNat_setWidth_reg s b
  have himm := toNat_aluImm s imm
  exact ⟨fun h => ⟨aluGives_divZero rfl aluDiv_zero (hreg.trans h), aluGives_divZero rfl aluMod_zero (hreg.trans h)⟩,
    fun h => ⟨aluGives_divZero rfl aluDiv_zero (himm.trans h), aluGives_divZero rfl aluMod_zero (himm.trans h)⟩⟩

/-- Settles O37: the identity of truncating division, carried to `w` bits; the remainder's bounds are those of the exact
remainder, which fits. -/
theorem quotientAndRemainderRebuildDividend : Obligations.QuotientAndRemainderRebuildDividend := by
  intro w a b _ hb
  rw [toInt_aluMod a hb]
  refine ⟨aluDiv_mul_add_aluMod a hb, ?bound, tmod_eq_zero_or_sign a.toInt b.toInt⟩
  case bound =>
    have hdivisor : b.toInt ≠ 0 := fun h => hb (BitVec.toInt_inj.mp (h.trans BitVec.toInt_zero.symm))
    rw [Int.natAbs_tmod]
    exact Nat.mod_lt _ (Int.natAbs_pos.mpr hdivisor)

end Sys2Proof.Proofs

/-! SUPPORT. The family `60_exceptions.md`: how a trap, an instruction and a step can stop, trap entry at an interrupt and
the return from it, a request that is held, and the end of a run. -/

namespace Sys2Proof.Machine

open Sys2Proof.Spec

/-! The stops (R64, R271, R276) -/

/-- A fault of an access of at most 8 bytes, one of which is not populated (R64). -/
def AccessFault (c : Config) (f : Fault) : Prop :=
  ∃ a, f = .unpopulated a ∧ ∃ j < 8, backed c (a + BitVec.ofNat 32 j) = false

/-- A refusal of a vector whose value is not a multiple of 4 (R276). -/
def VectorRefusal (c : Config) (r : Refusal) : Prop :=
  ∃ v, r = .reservedVector v ∧ v.toNat % 4 ≠ 0 ∧ c.vectorMode = .pointer

theorem accessFault_of_not_backs {c : Config} {a : Addr} {n : Nat} (hn : n ≤ 8) (h : backs c a n = false) :
    AccessFault c (.unpopulated a) := by
  have hbyte : ¬ ∀ j < n, backed c (a + BitVec.ofNat 32 j) = true := by simp [← backs_iff, h]
  push Not at hbyte
  obtain ⟨j, hj, hbacked⟩ := hbyte
  exact ⟨a, rfl, j, by omega, Bool.eq_false_iff.mpr hbacked⟩

theorem vectorTarget_of_not_backs {s : State} {v : Vec} (hmode : s.cfg.vectorMode = .pointer)
    (h : backs s.cfg (vectorAddr v) 4 = false) : vectorTarget s v = .fault (.unpopulated (vectorAddr v)) := by
  simp only [vectorTarget, hmode, access_of_not_backs h]

theorem vectorTarget_of_misaligned {s : State} {v : Vec} (hmode : s.cfg.vectorMode = .pointer)
    (hbacks : backs s.cfg (vectorAddr v) 4 = true)
    (hvalue : (BitVec.ofNat 32 (memRead s (vectorAddr v) 4)).toNat % 4 ≠ 0) :
    vectorTarget s v = .refused (.reservedVector (BitVec.ofNat 32 (memRead s (vectorAddr v) 4))) := by
  simp only [vectorTarget, hmode, access_of_backs hbacks, if_neg hvalue]

/-- A vector names a target, or its read faults, or its value is refused. -/
theorem vectorTarget_cases (s : State) (v : Vec) :
    (∃ target, vectorTarget s v = .next target) ∨
    (∃ f, vectorTarget s v = .fault f ∧ AccessFault s.cfg f) ∨
    (∃ r, vectorTarget s v = .refused r ∧ VectorRefusal s.cfg r) := by
  cases hmode : s.cfg.vectorMode with
  | code => exact .inl ⟨_, vectorTarget_next.mpr (.inl ⟨hmode, rfl⟩)⟩
  | pointer =>
    cases hbacks : backs s.cfg (vectorAddr v) 4 with
    | false => exact .inr (.inl ⟨_, vectorTarget_of_not_backs hmode hbacks, accessFault_of_not_backs (by decide) hbacks⟩)
    | true =>
      by_cases hvalue : (BitVec.ofNat 32 (memRead s (vectorAddr v) 4)).toNat % 4 = 0
      · exact .inl ⟨_, vectorTarget_next.mpr (.inr ⟨hmode, hbacks, rfl, hvalue⟩)⟩
      · exact .inr (.inr ⟨_, vectorTarget_of_misaligned hmode hbacks hvalue, _, rfl, hvalue, hmode⟩)

theorem trapEnter_of_vectorTarget_refused {v : Vec} {ret : Addr} {s : State} {r : Refusal}
    (h : vectorTarget s v = .refused r) : trapEnter v ret s = .refused r := by
  simp only [trapEnter, h]

/-- Trap entry stops as its vector does. -/
theorem trapEnter_cases (v : Vec) (ret : Addr) (s : State) :
    (∃ t, trapEnter v ret s = .next t) ∨
    (∃ f, trapEnter v ret s = .fault f ∧ AccessFault s.cfg f) ∨
    (∃ r, trapEnter v ret s = .refused r ∧ VectorRefusal s.cfg r) := by
  rcases vectorTarget_cases s v with ⟨target, h⟩ | ⟨f, h, hf⟩ | ⟨r, h, hr⟩
  · exact .inl ⟨_, trapEnter_next.mpr ⟨target, h, rfl⟩⟩
  · exact .inr (.inl ⟨f, by simp only [trapEnter, h], hf⟩)
  · exact .inr (.inr ⟨r, trapEnter_of_vectorTarget_refused h, hr⟩)

/-- Every instruction but SYSCAL either completes in every state or is one access of at most 8 bytes. -/
theorem exec_form (i : Instr) (s : State) :
    i = .syscal ∨ (∃ t, exec i s = .next t) ∨ ∃ a n t, n ≤ 8 ∧ exec i s = access s a n (.next t) := by
  cases i with
  | syscal => exact .inl rfl
  | stb b a imm | stw b a imm | std b a imm | stq b a imm => exact .inr (.inr ⟨_, _, _, by decide, rfl⟩)
  | ldb c a imm | ldw c a imm | ldd c a imm | ldq c a imm => exact .inr (.inr ⟨_, _, _, by decide, rfl⟩)
  | _ => exact .inr (.inl ⟨_, rfl⟩)

/-- An instruction completes, or an access of it faults, or it is a SYSCAL whose vector is refused. -/
theorem exec_cases (i : Instr) (s : State) :
    (∃ t, exec i s = .next t) ∨
    (∃ f, exec i s = .fault f ∧ AccessFault s.cfg f) ∨
    (i = .syscal ∧ ∃ r, exec i s = .refused r ∧ VectorRefusal s.cfg r) := by
  rcases exec_form i s with rfl | h | ⟨a, n, t, hn, h⟩
  · exact (trapEnter_cases .software (s.pc + 4) s).imp_right (Or.imp_right fun h => ⟨rfl, h⟩)
  · exact .inl h
  · rw [h]
    cases hbacks : backs s.cfg a n with
    | true => exact .inl ⟨t, access_of_backs hbacks⟩
    | false => exact .inr (.inl ⟨_, access_of_not_backs hbacks, accessFault_of_not_backs hn hbacks⟩)

theorem fetch_cases (s : State) :
    (∃ i, fetch s = .next i) ∨
    (∃ f, fetch s = .fault f ∧ AccessFault s.cfg f) ∨
    (∃ why, fetch s = .refused (.reservedEncoding why) ∧ decode s.cfg (fetchWord s) = .error why) := by
  cases hbacks : backs s.cfg s.pc 4 with
  | false => exact .inr (.inl ⟨_, fetch_of_not_backs hbacks, accessFault_of_not_backs (by decide) hbacks⟩)
  | true =>
    cases hdecode : decode s.cfg (fetchWord s) with
    | ok i => exact .inl ⟨i, fetch_next.mpr ⟨hbacks, hdecode⟩⟩
    | error why => exact .inr (.inr ⟨why, fetch_of_decode_error hbacks hdecode, rfl⟩)

/-- What a step can answer, a stop included. -/
theorem step_cases (s : State) :
    (∃ t, step s = .next t) ∨
    (∃ f, step s = .fault f ∧ AccessFault s.cfg f) ∨
    (∃ why, step s = .refused (.reservedEncoding why) ∧ s.takesInterrupt = false ∧
      decode s.cfg (fetchWord s) = .error why) ∨
    (∃ r, step s = .refused r ∧ VectorRefusal s.cfg r ∧ (s.takesInterrupt = true ∨ Fetches s .syscal)) := by
  cases hint : s.takesInterrupt with
  | true =>
    rw [step_of_takesInterrupt hint]
    rcases trapEnter_cases .hardware s.pc s.sampled with h | h | ⟨r, h, hr⟩
    · exact .inl h
    · exact .inr (.inl h)
    · exact .inr (.inr (.inr ⟨r, h, hr, .inl rfl⟩))
  | false =>
    rcases fetch_cases s with ⟨i, hfetch⟩ | ⟨f, hfetch, hf⟩ | ⟨why, hfetch, hwhy⟩
    · rw [step_of_fetch hint hfetch]
      rcases exec_cases i s.sampled with h | h | ⟨rfl, r, h, hr⟩
      · exact .inl h
      · exact .inr (.inl h)
      · exact .inr (.inr (.inr ⟨r, h, hr, .inr (fetch_next.mp hfetch)⟩))
    · exact .inr (.inl ⟨f, step_of_fetch_fault hint hfetch, hf⟩)
    · exact .inr (.inr (.inl ⟨why, step_of_fetch_refused hint hfetch, rfl, hwhy⟩))

theorem accessFault_of_step_fault {s : State} {f : Fault} (h : step s = .fault f) : AccessFault s.cfg f := by
  rcases step_cases s with ⟨t, h'⟩ | ⟨f', h', hf⟩ | ⟨why, h', -⟩ | ⟨r, h', -⟩
  · cases h'.symm.trans h
  · cases h'.symm.trans h
    exact hf
  · cases h'.symm.trans h
  · cases h'.symm.trans h

theorem step_refused {s : State} {r : Refusal} (h : step s = .refused r) :
    (∃ why, r = .reservedEncoding why ∧ s.takesInterrupt = false ∧ decode s.cfg (fetchWord s) = .error why) ∨
    (∃ v, r = .reservedVector v ∧ v.toNat % 4 ≠ 0 ∧ s.cfg.vectorMode = .pointer ∧
      (s.takesInterrupt = true ∨ Fetches s .syscal)) := by
  rcases step_cases s with ⟨t, h'⟩ | ⟨f, h', -⟩ | ⟨why, h', hint, hwhy⟩ | ⟨r', h', ⟨v, hv, hvalue, hmode⟩, htrap⟩
  · cases h'.symm.trans h
  · cases h'.symm.trans h
  · cases h'.symm.trans h
    exact .inl ⟨why, rfl, hint, hwhy⟩
  · cases h'.symm.trans h
    exact .inr ⟨v, hv, hvalue, hmode, htrap⟩

/-! Trap entry at an interrupt, and the return from it (R277, R281) -/

theorem takesInterrupt_eq_true_iff {s : State} : s.takesInterrupt = true ↔ s.sr.getLsbD 1 = true ∧ s.irq.now = true :=
  Bool.and_eq_true_iff

/-- The state in which the handler of a hardware interrupt starts. -/
def State.interrupted (s : State) (target : Addr) : State :=
  { s with ir := s.pc, sr := withStatusBit s.sr 0 true, pc := target, irq := s.irq.later }

theorem step_of_interrupt {s : State} {target : Addr} (hint : s.takesInterrupt = true)
    (htarget : TrapTarget s .hardware target) : step s = .next (s.interrupted target) :=
  (step_of_takesInterrupt hint).trans (trapEnter_of_trapTarget (s := s.sampled) s.pc htarget)

/-- The interrupt's `SR.K <- 1` is undone by URT's `SR.K <- 0`, whatever K was before. -/
theorem getLsbD_clear_set_zero (sr : BitVec 4) (m : Nat) :
    (withStatusBit (withStatusBit sr 0 true) 0 false).getLsbD m = if m = 0 then false else sr.getLsbD m := by
  rw [getLsbD_withStatusBit_zero, getLsbD_withStatusBit_zero]
  split
  · rfl
  · rfl

/-! A request that is held (R283) -/

/-- After `n + 1` boundaries with the request held: `n` re-entries of the handler, which executed nothing. -/
structure State.Reentered (s : State) (target : Addr) (n : Nat) (t : State) : Prop where
  fields : t = { s with ir := if n = 0 then s.pc else target, sr := t.sr, pc := target, irq := t.irq }
  irq : ∀ k, t.irq.after k = s.irq.after (n + 1 + k)
  sr : ∀ m, t.sr.getLsbD m = if m = 0 then true else s.sr.getLsbD m

theorem State.reentered_zero (s : State) (target : Addr) : s.Reentered target 0 (s.interrupted target) where
  fields := rfl
  irq k := by rw [Nat.zero_add, Nat.add_comm, IrqInput.after_succ]; rfl
  sr := getLsbD_withStatusBit_zero s.sr true

theorem State.Reentered.succ {s t : State} {target : Addr} {n : Nat}
    (h : (s.interrupted target).Reentered target n t) : s.Reentered target (n + 1) t where
  fields := by
    obtain ⟨hfields, -, -⟩ := h
    rw [hfields]
    simp [State.interrupted]
  irq k := by rw [h.irq, show n + 1 + 1 + k = n + 1 + k + 1 by omega, IrqInput.after_succ]; rfl
  sr m := by
    rw [h.sr, State.interrupted, getLsbD_withStatusBit_zero]
    split
    · rfl
    · rfl

theorem steps_of_held_request {s : State} {target : Addr} (n : Nat) (hI : s.sr.getLsbD 1 = true)
    (htarget : TrapTarget s .hardware target) (hheld : ∀ k ≤ n, s.irq.after k = true) :
    ∃ t, steps (n + 1) s = .next t ∧ s.Reentered target n t := by
  have hentry := step_of_interrupt (takesInterrupt_eq_true_iff.mpr ⟨hI, hheld 0 (Nat.zero_le n)⟩) htarget
  induction n generalizing s with
  | zero => exact ⟨_, by simp only [steps, hentry], s.reentered_zero target⟩
  | succ n ih =>
    have hI' : (s.interrupted target).sr.getLsbD 1 = true := by
      rw [State.interrupted, getLsbD_withStatusBit_zero, if_neg (by decide), hI]
    have hheld' : ∀ k ≤ n, (s.interrupted target).irq.after k = true := fun k hk => hheld (k + 1) (by omega)
    have hentry' := step_of_interrupt (takesInterrupt_eq_true_iff.mpr ⟨hI', hheld' 0 (Nat.zero_le n)⟩) htarget
    obtain ⟨t, hsteps, ht⟩ := ih hI' htarget hheld' hentry'
    exact ⟨t, by rw [steps, hentry]; exact hsteps, ht.succ⟩

/-! The end of a run (R292) -/

/-- A multiple of 8 is a jump target as it stands, for both values of `JUMP_IGNORED_BITS` that the spec names. -/
theorem align_of_mod_eight {a : Addr} {k : Nat} (hk : k ≤ 3) (ha : a.toNat % 8 = 0) : align a k = a := by
  have hdvd : 2 ^ k ∣ a.toNat := Nat.dvd_trans (Nat.pow_dvd_pow 2 hk) (Nat.dvd_of_mod_eq_zero ha)
  exact BitVec.eq_of_toNat_eq (by rw [toNat_align, Nat.div_mul_cancel hdvd])

theorem jumpIgnoredBits_le_three {c : Config} (h : c.wf = true) : c.jumpIgnoredBits ≤ 3 := by
  simp only [Config.wf, Bool.and_eq_true, decide_eq_true_eq] at h
  obtain ⟨⟨⟨-, hjump⟩, -⟩, -⟩ := h
  exact hjump

theorem decode_jmp_zero (c : Config) : decode c 0x30000000 = .ok (.jmp 0) := decode_of_encode_eq rfl rfl

theorem exec_jmp_zero {s : State} (hk : s.cfg.jumpIgnoredBits ≤ 3) (hpc : s.pc.toNat % 8 = 0) :
    exec (.jmp 0) s = .next s := by
  have htarget : pcTarget s (0 : BitVec 27) = s.pc := by simp [pcTarget]
  have hjump : s.jumpTo s.pc = s := by rw [State.jumpTo, align_of_mod_eight hk hpc]
  rw [exec, execJmp, htarget, hjump]

theorem State.ended.noInterrupt {s : State} (h : s.ended) : NoInterrupt s := by
  obtain ⟨-, -, hI | hnever⟩ := h
  · exact .inl hI
  · exact .inr (hnever 0)

theorem State.ended.sampled {s : State} (h : s.ended) : s.sampled.ended := by
  obtain ⟨hpc, hword, hquiet⟩ := h
  exact ⟨hpc, hword, hquiet.imp_right fun hnever n => hnever (n + 1)⟩

end Sys2Proof.Machine

namespace Sys2Proof.Proofs

open Sys2Proof.Machine Sys2Proof.Spec

/-- Settles O49, by the answers a step can give. -/
theorem stopsOnlyForStatedReasons : Obligations.StopsOnlyForStatedReasons := fun _ =>
  ⟨fun _ h => accessFault_of_step_fault h, fun _ h => step_refused h⟩

/-- Settles O40: the step is trap entry through the hardware vector. -/
theorem interruptEntersHandler : Obligations.InterruptEntersHandler := fun s _ hI hnow htarget =>
  ⟨_, step_of_interrupt (takesInterrupt_eq_true_iff.mpr ⟨hI, hnow⟩) htarget, rfl, getLsbD_withStatusBit_zero s.sr true⟩

/-- Settles O51: URT goes to the address that the interrupt saved, and of SR both write K alone. -/
theorem interruptThenReturnResumes : Obligations.InterruptThenReturnResumes := by
  intro s t hint hstep
  rw [step_of_takesInterrupt hint] at hstep
  obtain ⟨target, -, rfl⟩ := trapEnter_next.mp hstep
  exact ⟨_, rfl, rfl, getLsbD_clear_set_zero s.sr⟩

/-- Settles O52: each boundary with the request is one entry of the handler; where the next has none, the step after the
entry fetches. -/
theorem heldRequestReentersHandler : Obligations.HeldRequestReentersHandler := by
  intro s target hI htarget
  refine ⟨fun n hheld => ?held, fun i hfetches hnow hwithdrawn => ?withdrawn⟩
  case held =>
    obtain ⟨t, hsteps, ht⟩ := steps_of_held_request n hI htarget hheld
    exact ⟨t, hsteps, ht.fields, ht.irq, ht.sr⟩
  case withdrawn =>
    exact ⟨_, step_of_interrupt (takesInterrupt_eq_true_iff.mpr ⟨hI, hnow⟩) htarget, rfl, rfl,
      stepRunsFetchedInstruction (s.interrupted target) i (.inr hwithdrawn) hfetches⟩

/-- Settles O53: the step runs the `JMP 0`, which leaves a pc that is a multiple of 8 where it is. -/
theorem endedRunStaysEnded : Obligations.EndedRunStaysEnded := by
  intro s hwf hbacks hended
  have ⟨hpc, hword, _⟩ := hended
  have hfetches : Fetches s (.jmp 0) := ⟨hbacks, hword ▸ decode_jmp_zero s.cfg⟩
  refine ⟨?_, hended.sampled⟩
  rw [stepRunsFetchedInstruction s (.jmp 0) hended.noInterrupt hfetches]
  exact exec_jmp_zero (jumpIgnoredBits_le_three hwf) hpc

/-- Settles O41: both traps stop as their vector does. -/
theorem misalignedVectorRefused : Obligations.MisalignedVectorRefused := by
  intro s hmode
  have hvalue : ∀ {n : Nat}, n % 4 ≠ 0 → (BitVec.ofNat 32 n).toNat % 4 ≠ 0 := by
    intro n hn
    rw [BitVec.toNat_ofNat]
    omega
  refine ⟨fun hbacks hmod => ?syscal, fun hI hnow hbacks hmod => ?interrupt⟩
  case syscal =>
    exact trapEnter_of_vectorTarget_refused (vectorTarget_of_misaligned (v := .software) hmode hbacks (hvalue hmod))
  case interrupt =>
    rw [step_of_takesInterrupt (takesInterrupt_eq_true_iff.mpr ⟨hI, hnow⟩)]
    exact trapEnter_of_vectorTarget_refused (s := s.sampled)
      (vectorTarget_of_misaligned (v := .hardware) hmode hbacks (hvalue hmod))

/-- Settles O42: URT is the return from a trap, in every state. -/
theorem userModeReturn : Obligations.UserModeReturn := fun s =>
  ⟨trapReturn s, rfl, rfl, getLsbD_withStatusBit_zero s.sr false⟩

end Sys2Proof.Proofs

/-! SUPPORT. The family `70_reset_and_hazards.md`: what a completed instruction does to the pc, the landing of a return, a
SYSCAL answered by a URT, and the state after reset. -/

namespace Sys2Proof.Machine

open Sys2Proof.Spec

/-! The pc after an instruction (R308) -/

/-- A completed instruction advances or jumps to an address with its ignored bits cleared, unless it is one of the two that
take a whole address. -/
theorem exec_pc {i : Instr} {s t : State} (h : exec i s = .next t) :
    i = .syscal ∨ i = .urt ∨ t.pc = s.pc + 4 ∨ ∃ a, t.pc = align a s.cfg.jumpIgnoredBits := by
  rcases exec_next h with
    ⟨c, v, rfl⟩ | ⟨-, a, n, v, rfl⟩ | ⟨-, -, -, rfl | ⟨a, rfl⟩⟩ | ⟨n, b, -, rfl⟩ | ⟨hurt, -⟩ | ⟨hsyscal, -⟩
  · exact .inr (.inr (.inl (by simp)))
  · exact .inr (.inr (.inl (by simp)))
  · exact .inr (.inr (.inl rfl))
  · exact .inr (.inr (.inr ⟨a, rfl⟩))
  · refine .inr (.inr (.inl ?_))
    split
    · rfl
    · rfl
  · exact .inr (.inl hurt)
  · exact .inl hsyscal

theorem align_three_mod_eight (a : Addr) : (align a 3).toNat % 8 = 0 := by
  rw [toNat_align]
  exact Nat.mul_mod_left _ 8

/-! The return of a call (R309) -/

/-- A return lands on the link rounded down to a multiple of 8. -/
theorem toNat_landing_three_zero (a : Addr) : (landing 3 a.toNat 0).toNat = a.toNat / 8 * 8 := by
  have hbase : (a.toNat : Int) = (a.toNat + 0) % 2 ^ 32 := by omega
  rw [← align_eq_landing hbase]
  exact toNat_align a 3

theorem landing_add_eight_of_mod_zero {a : Addr} (h : a.toNat % 8 = 0) : landing 3 (a + 8).toNat 0 = a + 8 := by
  apply BitVec.eq_of_toNat_eq
  rw [toNat_landing_three_zero, BitVec.toNat_add, show (8 : Addr).toNat = 8 from rfl]
  omega

theorem landing_add_eight_of_mod_four {a : Addr} (h : a.toNat % 8 = 4) : landing 3 (a + 8).toNat 0 = a + 4 := by
  apply BitVec.eq_of_toNat_eq
  rw [toNat_landing_three_zero, BitVec.toNat_add, BitVec.toNat_add, show (8 : Addr).toNat = 8 from rfl,
    show (4 : Addr).toNat = 4 from rfl]
  omega

/-! A SYSCAL (R210) -/

/-- The state in which the handler of a system call starts. -/
def State.called (s : State) (target : Addr) : State :=
  { s with ir := s.pc + 4, sr := withStatusBit s.sr 0 true, pc := target, irq := s.irq.later }

theorem step_of_syscal {s : State} {target : Addr} (hint : NoInterrupt s) (hfetches : Fetches s .syscal)
    (htarget : TrapTarget s .software target) : step s = .next (s.called target) :=
  (step_of_fetch (takesInterrupt_eq_false_iff.mpr hint) (fetch_next.mpr hfetches)).trans
    (trapEnter_of_trapTarget (s := s.sampled) (s.pc + 4) htarget)

/-- A trap entry leaves I as it is, so an interrupt comes after it exactly where one would have come without it. -/
theorem State.called_noInterrupt {s : State} (target : Addr) (h : NoInterrupt { s with irq := s.irq.later }) :
    NoInterrupt (s.called target) :=
  h.imp_left fun hI => (getLsbD_withStatusBit_ne s.sr true (by decide)).trans hI

theorem step_of_urt {s : State} (hint : NoInterrupt s) (hfetches : Fetches s .urt) :
    step s = .next (trapReturn s.sampled) :=
  step_of_fetch (takesInterrupt_eq_false_iff.mpr hint) (fetch_next.mpr hfetches)

end Sys2Proof.Machine

namespace Sys2Proof.Proofs

open Sys2Proof.Machine Sys2Proof.Spec

/-- Settles O28: of the ways to the next pc, a jump clears the three bits. -/
theorem noJumpReachesFourModuloEight : Obligations.NoJumpReachesFourModuloEight := by
  intro s t hbits hstep hpc
  rcases step_next hstep with ⟨hint, -⟩ | ⟨-, i, hfetch, hexec⟩
  · exact .inl hint
  · have hfetches : Fetches s i := fetch_next.mp hfetch
    rcases exec_pc hexec with rfl | rfl | hadvance | ⟨a, hjump⟩
    · exact .inr (.inl hfetches)
    · exact .inr (.inr (.inl hfetches))
    · exact .inr (.inr (.inr hadvance))
    · rw [hjump, State.sampled_cfg, hbits] at hpc
      exact absurd (align_three_mod_eight a) hpc

/-- Settles O50: the first step saves the address after the SYSCAL, and the second goes there and clears K. -/
theorem firstEntryIntoUserMode : Obligations.FirstEntryIntoUserMode := by
  intro s target hint hint' hsyscal htarget hurt
  exact ⟨_, _, step_of_syscal hint hsyscal htarget,
    step_of_urt (s := s.called target) (State.called_noInterrupt target hint') hurt, rfl, getLsbD_clear_set_zero s.sr⟩

/-- Settles O58: JAL's link is the call's address plus 8, and RET rounds it down. -/
theorem callReturnAddress : Obligations.CallReturnAddress := by
  intro s t u imm hbase hbits hjal hret
  obtain ⟨t', hjal', hsame, hlink, -⟩ := jumpAndLinkExpansion s imm hbase
  cases hjal.symm.trans hjal'
  obtain ⟨-, -, -, -, hret'⟩ := shortExpansions t 0 (hsame.cfg ▸ hbase)
  cases hret.symm.trans hret'
  rw [hsame.cfg, hbits, hlink]
  exact ⟨landing_add_eight_of_mod_zero, landing_add_eight_of_mod_four⟩

/-- Settles O6: reset sets the pc and passes on what the manual leaves unspecified. -/
theorem resetProgramCounter : Obligations.ResetProgramCounter :=
  ⟨State.reset_pc, fun _ _ _ _ _ => ⟨rfl, rfl, rfl, rfl, rfl⟩⟩

end Sys2Proof.Proofs
